-- ==== Sys2Proof/Word.lean ====
section
/-! DEFINITION. The bit vectors of the CHIP-8 core: bytes, words, 12-bit addresses and 4-bit register numbers
(00_scope.md R8, R9: every quantity is unsigned, bit 0 is the least significant bit). -/

namespace Sys2Proof

/-- A memory byte, a general register, a timer, the immediate NN (10_state.md R21, R29, R30; 30_encoding.md R88). -/
abbrev Byte := BitVec 8

/-- An instruction word, pc, I, a stack entry, FAULT_PC, FAULT_INFO (10_state.md R24, R25, R27, R34). -/
abbrev Word := BitVec 16

/-- The immediate address NNN (30_encoding.md R88). -/
abbrev Addr := BitVec 12

/-- The row count N of DXYN (30_encoding.md R88). -/
abbrev Nibble := BitVec 4

/-- A register number X or Y, or a key number 0x0 to 0xF (30_encoding.md R88, 10_state.md R21, R32). -/
abbrev Reg := BitVec 4

/-- The number of VF, the 16th general register (10_state.md R22). -/
abbrev Reg.vf : Reg := 0xF

end Sys2Proof
end

