-- ==== Sys2Proof/Syntax.lean ====
section
/-! DEFINITION. The 34 instructions of 30_encoding.md R90 (00_scope.md R3), one constructor per row of
spec/opcode_table.json, in the table's order. Operands carry the widths of their fields (R88), so every term is a
well-formed instruction. -/

namespace Sys2Proof

/-- An instruction of the CHIP-8 core. -/
inductive Instr where
  /-- 00E0 CLS (40_display.md R111). -/
  | cls
  /-- 00EE RET (41_control_flow.md R131). -/
  | ret
  /-- 1NNN JP nnn (41_control_flow.md R132). -/
  | jp (nnn : Addr)
  /-- 2NNN CALL nnn (41_control_flow.md R133). -/
  | call (nnn : Addr)
  /-- 3XNN SE Vx, nn (41_control_flow.md R134). -/
  | seImm (x : Reg) (nn : Byte)
  /-- 4XNN SNE Vx, nn (41_control_flow.md R135). -/
  | sneImm (x : Reg) (nn : Byte)
  /-- 5XY0 SE Vx, Vy (41_control_flow.md R136). -/
  | seReg (x y : Reg)
  /-- 6XNN LD Vx, nn (42_alu.md R151). -/
  | ldImm (x : Reg) (nn : Byte)
  /-- 7XNN ADD Vx, nn (42_alu.md R152). -/
  | addImm (x : Reg) (nn : Byte)
  /-- 8XY0 LD Vx, Vy (42_alu.md R153). -/
  | ldReg (x y : Reg)
  /-- 8XY1 OR Vx, Vy (42_alu.md R154). -/
  | orReg (x y : Reg)
  /-- 8XY2 AND Vx, Vy (42_alu.md R155). -/
  | andReg (x y : Reg)
  /-- 8XY3 XOR Vx, Vy (42_alu.md R156). -/
  | xorReg (x y : Reg)
  /-- 8XY4 ADD Vx, Vy (42_alu.md R158). -/
  | addReg (x y : Reg)
  /-- 8XY5 SUB Vx, Vy (42_alu.md R159). -/
  | sub (x y : Reg)
  /-- 8XY6 SHR Vx, Vy: Y is encoded and not read (42_alu.md R160). -/
  | shr (x y : Reg)
  /-- 8XY7 SUBN Vx, Vy (42_alu.md R161). -/
  | subn (x y : Reg)
  /-- 8XYE SHL Vx, Vy: Y is encoded and not read (42_alu.md R162). -/
  | shl (x y : Reg)
  /-- 9XY0 SNE Vx, Vy (41_control_flow.md R137). -/
  | sneReg (x y : Reg)
  /-- ANNN LD I, nnn (43_index_memory.md R181). -/
  | ldI (nnn : Addr)
  /-- BNNN JP V0, nnn (41_control_flow.md R138). -/
  | jpV0 (nnn : Addr)
  /-- CXNN RND Vx, nn (42_alu.md R163). -/
  | rnd (x : Reg) (nn : Byte)
  /-- DXYN DRW Vx, Vy, n (40_display.md R112). -/
  | drw (x y : Reg) (n : Nibble)
  /-- EX9E SKP Vx (44_keypad_timers.md R201). -/
  | skp (x : Reg)
  /-- EXA1 SKNP Vx (44_keypad_timers.md R202). -/
  | sknp (x : Reg)
  /-- FX07 LD Vx, DT (44_keypad_timers.md R203). -/
  | ldVxDt (x : Reg)
  /-- FX0A LD Vx, K (44_keypad_timers.md R204). -/
  | ldVxK (x : Reg)
  /-- FX15 LD DT, Vx (44_keypad_timers.md R205). -/
  | ldDtVx (x : Reg)
  /-- FX18 LD ST, Vx (44_keypad_timers.md R206). -/
  | ldStVx (x : Reg)
  /-- FX1E ADD I, Vx (43_index_memory.md R182). -/
  | addIVx (x : Reg)
  /-- FX29 LD F, Vx (43_index_memory.md R183). -/
  | ldFVx (x : Reg)
  /-- FX33 LD B, Vx (43_index_memory.md R184). -/
  | ldBVx (x : Reg)
  /-- FX55 LD [I], Vx (43_index_memory.md R185). -/
  | ldMemVx (x : Reg)
  /-- FX65 LD Vx, [I] (43_index_memory.md R186). -/
  | ldVxMem (x : Reg)
  deriving DecidableEq, Repr

end Sys2Proof
end

