-- ==== Sys2Proof/WellFormed.lean ====
section
/-! DEFINITION. What a well-formed instruction word is: one that a row of the opcode table of 30_encoding.md R90 matches.
Terms of `Instr` need no check of their own, since their operands have the widths of their fields. The table is kept
apart from the decoder (Decode.lean, written by family after R91), so that the two can be compared. -/

namespace Sys2Proof

/-- A row of 30_encoding.md R90: its pattern, its `match` bits and its `mask`. -/
structure OpcodeRow where
  pattern : String
  bits : Word
  mask : Word
  deriving DecidableEq, Repr

/-- "a word `w` is the row's instruction when `(w & mask) = match`" (30_encoding.md R90). -/
def OpcodeRow.matchesWord (r : OpcodeRow) (w : Word) : Bool :=
  w &&& r.mask == r.bits

/-- The 34 rows of 30_encoding.md R90, in its order. -/
def opcodeTable : List OpcodeRow :=
  [ { pattern := "00E0", bits := 0x00E0, mask := 0xFFFF },
    { pattern := "00EE", bits := 0x00EE, mask := 0xFFFF },
    { pattern := "1NNN", bits := 0x1000, mask := 0xF000 },
    { pattern := "2NNN", bits := 0x2000, mask := 0xF000 },
    { pattern := "3XNN", bits := 0x3000, mask := 0xF000 },
    { pattern := "4XNN", bits := 0x4000, mask := 0xF000 },
    { pattern := "5XY0", bits := 0x5000, mask := 0xF00F },
    { pattern := "6XNN", bits := 0x6000, mask := 0xF000 },
    { pattern := "7XNN", bits := 0x7000, mask := 0xF000 },
    { pattern := "8XY0", bits := 0x8000, mask := 0xF00F },
    { pattern := "8XY1", bits := 0x8001, mask := 0xF00F },
    { pattern := "8XY2", bits := 0x8002, mask := 0xF00F },
    { pattern := "8XY3", bits := 0x8003, mask := 0xF00F },
    { pattern := "8XY4", bits := 0x8004, mask := 0xF00F },
    { pattern := "8XY5", bits := 0x8005, mask := 0xF00F },
    { pattern := "8XY6", bits := 0x8006, mask := 0xF00F },
    { pattern := "8XY7", bits := 0x8007, mask := 0xF00F } ] ++
  [ { pattern := "8XYE", bits := 0x800E, mask := 0xF00F },
    { pattern := "9XY0", bits := 0x9000, mask := 0xF00F },
    { pattern := "ANNN", bits := 0xA000, mask := 0xF000 },
    { pattern := "BNNN", bits := 0xB000, mask := 0xF000 },
    { pattern := "CXNN", bits := 0xC000, mask := 0xF000 },
    { pattern := "DXYN", bits := 0xD000, mask := 0xF000 },
    { pattern := "EX9E", bits := 0xE09E, mask := 0xF0FF },
    { pattern := "EXA1", bits := 0xE0A1, mask := 0xF0FF },
    { pattern := "FX07", bits := 0xF007, mask := 0xF0FF },
    { pattern := "FX0A", bits := 0xF00A, mask := 0xF0FF },
    { pattern := "FX15", bits := 0xF015, mask := 0xF0FF },
    { pattern := "FX18", bits := 0xF018, mask := 0xF0FF },
    { pattern := "FX1E", bits := 0xF01E, mask := 0xF0FF },
    { pattern := "FX29", bits := 0xF029, mask := 0xF0FF },
    { pattern := "FX33", bits := 0xF033, mask := 0xF0FF },
    { pattern := "FX55", bits := 0xF055, mask := 0xF0FF },
    { pattern := "FX65", bits := 0xF065, mask := 0xF0FF } ]

/-- A word is well formed when some row of the table matches it; every other word is illegal (30_encoding.md R96). -/
def WellFormedWord (w : Word) : Bool :=
  opcodeTable.any (·.matchesWord w)

/-- The pattern column of an instruction's row of 30_encoding.md R90. -/
def Instr.pattern : Instr → String
  | .cls => "00E0"
  | .ret => "00EE"
  | .jp _ => "1NNN"
  | .call _ => "2NNN"
  | .seImm _ _ => "3XNN"
  | .sneImm _ _ => "4XNN"
  | .seReg _ _ => "5XY0"
  | .ldImm _ _ => "6XNN"
  | .addImm _ _ => "7XNN"
  | .ldReg _ _ => "8XY0"
  | .orReg _ _ => "8XY1"
  | .andReg _ _ => "8XY2"
  | .xorReg _ _ => "8XY3"
  | .addReg _ _ => "8XY4"
  | .sub _ _ => "8XY5"
  | .shr _ _ => "8XY6"
  | .subn _ _ => "8XY7"
  | .shl _ _ => "8XYE"
  | .sneReg _ _ => "9XY0"
  | .ldI _ => "ANNN"
  | .jpV0 _ => "BNNN"
  | .rnd _ _ => "CXNN"
  | .drw _ _ _ => "DXYN"
  | .skp _ => "EX9E"
  | .sknp _ => "EXA1"
  | .ldVxDt _ => "FX07"
  | .ldVxK _ => "FX0A"
  | .ldDtVx _ => "FX15"
  | .ldStVx _ => "FX18"
  | .addIVx _ => "FX1E"
  | .ldFVx _ => "FX29"
  | .ldBVx _ => "FX33"
  | .ldMemVx _ => "FX55"
  | .ldVxMem _ => "FX65"

end Sys2Proof
end

