-- ==== Sys2Proof/Decode.lean ====
section
/-! DEFINITION. The decoder (30_encoding.md R83, R84, R88, R91), total on any bytes and rejecting by name, and the encoder
written from the `Encoding` lines of the instruction rules. -/

namespace Sys2Proof

/-- Why bytes are no instruction. -/
inductive DecodeError where
  /-- The word is matched by no row of 30_encoding.md R90 (R96); the step raises ILLEGAL_OPCODE with it. -/
  | illegal (w : Word)
  /-- Fewer than two bytes were given. A step never sees this: it fetches two bytes (30_encoding.md R82, R83). -/
  | truncated
  deriving DecidableEq, Repr

/-- op = w[15:12] (30_encoding.md R88). -/
def opField (w : Word) : BitVec 4 := w.extractLsb' 12 4

/-- X = w[11:8] (30_encoding.md R88). -/
def xField (w : Word) : Reg := w.extractLsb' 8 4

/-- Y = w[7:4] (30_encoding.md R88). -/
def yField (w : Word) : Reg := w.extractLsb' 4 4

/-- N = w[3:0] (30_encoding.md R88). -/
def nField (w : Word) : Nibble := w.extractLsb' 0 4

/-- NN = w[7:0] (30_encoding.md R88). -/
def nnField (w : Word) : Byte := w.extractLsb' 0 8

/-- NNN = w[11:0] (30_encoding.md R88). -/
def nnnField (w : Word) : Addr := w.extractLsb' 0 12

/-- op = 0x0: only 00E0 and 00EE (30_encoding.md R91). -/
def decode0 (w : Word) : Except DecodeError Instr :=
  if w = 0x00E0 then .ok .cls
  else if w = 0x00EE then .ok .ret
  else .error (.illegal w)

/-- op = 0x8: N selects the operation (30_encoding.md R91). -/
def decode8 (w : Word) : Except DecodeError Instr :=
  match (nField w).toNat with
  | 0x0 => .ok (.ldReg (xField w) (yField w))
  | 0x1 => .ok (.orReg (xField w) (yField w))
  | 0x2 => .ok (.andReg (xField w) (yField w))
  | 0x3 => .ok (.xorReg (xField w) (yField w))
  | 0x4 => .ok (.addReg (xField w) (yField w))
  | 0x5 => .ok (.sub (xField w) (yField w))
  | 0x6 => .ok (.shr (xField w) (yField w))
  | 0x7 => .ok (.subn (xField w) (yField w))
  | 0xE => .ok (.shl (xField w) (yField w))
  | _ => .error (.illegal w)

/-- op = 0xE: NN is 0x9E or 0xA1 (30_encoding.md R91). -/
def decodeE (w : Word) : Except DecodeError Instr :=
  match (nnField w).toNat with
  | 0x9E => .ok (.skp (xField w))
  | 0xA1 => .ok (.sknp (xField w))
  | _ => .error (.illegal w)

/-- op = 0xF: NN selects the operation (30_encoding.md R91). -/
def decodeF (w : Word) : Except DecodeError Instr :=
  match (nnField w).toNat with
  | 0x07 => .ok (.ldVxDt (xField w))
  | 0x0A => .ok (.ldVxK (xField w))
  | 0x15 => .ok (.ldDtVx (xField w))
  | 0x18 => .ok (.ldStVx (xField w))
  | 0x1E => .ok (.addIVx (xField w))
  | 0x29 => .ok (.ldFVx (xField w))
  | 0x33 => .ok (.ldBVx (xField w))
  | 0x55 => .ok (.ldMemVx (xField w))
  | 0x65 => .ok (.ldVxMem (xField w))
  | _ => .error (.illegal w)

/-- Decode one word by family (30_encoding.md R84, R91): the instruction, or the word rejected as illegal (R96). -/
def decode (w : Word) : Except DecodeError Instr :=
  match (opField w).toNat with
  | 0x0 => decode0 w
  | 0x1 => .ok (.jp (nnnField w))
  | 0x2 => .ok (.call (nnnField w))
  | 0x3 => .ok (.seImm (xField w) (nnField w))
  | 0x4 => .ok (.sneImm (xField w) (nnField w))
  | 0x5 => if nField w = 0 then .ok (.seReg (xField w) (yField w)) else .error (.illegal w)
  | 0x6 => .ok (.ldImm (xField w) (nnField w))
  | 0x7 => .ok (.addImm (xField w) (nnField w))
  | 0x8 => decode8 w
  | 0x9 => if nField w = 0 then .ok (.sneReg (xField w) (yField w)) else .error (.illegal w)
  | 0xA => .ok (.ldI (nnnField w))
  | 0xB => .ok (.jpV0 (nnnField w))
  | 0xC => .ok (.rnd (xField w) (nnField w))
  | 0xD => .ok (.drw (xField w) (yField w) (nField w))
  | 0xE => decodeE w
  | 0xF => decodeF w
  | _ => .error (.illegal w)

/-- Two consecutive bytes as a word, big-endian: the byte at the lower address is bits 15..8 (30_encoding.md R83,
20_memory.md R69). -/
def wordOfBytes (hi lo : Byte) : Word := hi ++ lo

/-- Decode the front of a byte sequence, answering the bytes after the instruction: every instruction is 2 bytes
(30_encoding.md R87, R98). -/
def decodeBytes : List Byte → Except DecodeError (Instr × List Byte)
  | hi :: lo :: rest =>
    match decode (wordOfBytes hi lo) with
    | .ok i => .ok (i, rest)
    | .error e => .error e
  | _ => .error .truncated

/-- X in bits 11..8 of an encoding (30_encoding.md R88). -/
def putX (x : Reg) : Word := x.setWidth 16 <<< 8

/-- Y in bits 7..4 of an encoding (30_encoding.md R88). -/
def putY (y : Reg) : Word := y.setWidth 16 <<< 4

/-- N in bits 3..0 of an encoding (30_encoding.md R88). -/
def putN (n : Nibble) : Word := n.setWidth 16

/-- NN in bits 7..0 of an encoding (30_encoding.md R88). -/
def putNN (nn : Byte) : Word := nn.setWidth 16

/-- NNN in bits 11..0 of an encoding (30_encoding.md R88). -/
def putNNN (nnn : Addr) : Word := nnn.setWidth 16

/-- The word of an instruction, as the `Encoding` line of its rule writes it. -/
def encode : Instr → Word
  | .cls => 0x00E0
  | .ret => 0x00EE
  | .jp nnn => 0x1000 ||| putNNN nnn
  | .call nnn => 0x2000 ||| putNNN nnn
  | .seImm x nn => 0x3000 ||| putX x ||| putNN nn
  | .sneImm x nn => 0x4000 ||| putX x ||| putNN nn
  | .seReg x y => 0x5000 ||| putX x ||| putY y
  | .ldImm x nn => 0x6000 ||| putX x ||| putNN nn
  | .addImm x nn => 0x7000 ||| putX x ||| putNN nn
  | .ldReg x y => 0x8000 ||| putX x ||| putY y
  | .orReg x y => 0x8001 ||| putX x ||| putY y
  | .andReg x y => 0x8002 ||| putX x ||| putY y
  | .xorReg x y => 0x8003 ||| putX x ||| putY y
  | .addReg x y => 0x8004 ||| putX x ||| putY y
  | .sub x y => 0x8005 ||| putX x ||| putY y
  | .shr x y => 0x8006 ||| putX x ||| putY y
  | .subn x y => 0x8007 ||| putX x ||| putY y
  | .shl x y => 0x800E ||| putX x ||| putY y
  | .sneReg x y => 0x9000 ||| putX x ||| putY y
  | .ldI nnn => 0xA000 ||| putNNN nnn
  | .jpV0 nnn => 0xB000 ||| putNNN nnn
  | .rnd x nn => 0xC000 ||| putX x ||| putNN nn
  | .drw x y n => 0xD000 ||| putX x ||| putY y ||| putN n
  | .skp x => 0xE09E ||| putX x
  | .sknp x => 0xE0A1 ||| putX x
  | .ldVxDt x => 0xF007 ||| putX x
  | .ldVxK x => 0xF00A ||| putX x
  | .ldDtVx x => 0xF015 ||| putX x
  | .ldStVx x => 0xF018 ||| putX x
  | .addIVx x => 0xF01E ||| putX x
  | .ldFVx x => 0xF029 ||| putX x
  | .ldBVx x => 0xF033 ||| putX x
  | .ldMemVx x => 0xF055 ||| putX x
  | .ldVxMem x => 0xF065 ||| putX x

/-- The high byte of a word, which lies at the lower address (20_memory.md R69). -/
def hiByte (w : Word) : Byte := w.extractLsb' 8 8

/-- The low byte of a word, which lies at the higher address (20_memory.md R69). -/
def loByte (w : Word) : Byte := w.extractLsb' 0 8

/-- The two bytes of an instruction in address order (20_memory.md R69). -/
def encodeBytes (i : Instr) : List Byte := [hiByte (encode i), loByte (encode i)]

/-- The word whose `nbits` low bits are those of `w`, the rest 0; the host numbers an instruction's bits so. -/
def tableWord (nbits w : Nat) : Word := BitVec.ofNat 16 (w % 2 ^ nbits)

/-- The instruction the decoder reads from the table word `w` of `nbits` bits, laid out in memory order. -/
def decodeTableWord (nbits w : Nat) : Option Instr :=
  match decodeBytes [hiByte (tableWord nbits w), loByte (tableWord nbits w)] with
  | .ok (i, _) => some i
  | .error _ => none

end Sys2Proof
end

