-- ==== Sys2Proof/Machine/Font.lean ====
section
/-! DEFINITION. FONT, the 80 font bytes (20_memory.md R64, 00_scope.md R7). The source does not give them; the spec takes
them from general knowledge and calls them a parameter (92_eei_decisions.md D32), so they stand here alone
(notes/assumptions/4.md). -/

namespace Sys2Proof.Machine

/-- The 16 glyphs of 20_memory.md R64, row 0 first, with the address each lies at. -/
def fontGlyphs : List (List Byte) :=
  [ [0xF0, 0x90, 0x90, 0x90, 0xF0],   -- 0 at 0x050
    [0x20, 0x60, 0x20, 0x20, 0x70],   -- 1 at 0x055
    [0xF0, 0x10, 0xF0, 0x80, 0xF0],   -- 2 at 0x05A
    [0xF0, 0x10, 0xF0, 0x10, 0xF0],   -- 3 at 0x05F
    [0x90, 0x90, 0xF0, 0x10, 0x10],   -- 4 at 0x064
    [0xF0, 0x80, 0xF0, 0x10, 0xF0],   -- 5 at 0x069
    [0xF0, 0x80, 0xF0, 0x90, 0xF0],   -- 6 at 0x06E
    [0xF0, 0x10, 0x20, 0x40, 0x40] ] ++ -- 7 at 0x073
  [ [0xF0, 0x90, 0xF0, 0x90, 0xF0],   -- 8 at 0x078
    [0xF0, 0x90, 0xF0, 0x10, 0xF0],   -- 9 at 0x07D
    [0xF0, 0x90, 0xF0, 0x90, 0x90],   -- A at 0x082
    [0xE0, 0x90, 0xE0, 0x90, 0xE0],   -- B at 0x087
    [0xF0, 0x80, 0x80, 0x80, 0xF0],   -- C at 0x08C
    [0xE0, 0x90, 0x90, 0x90, 0xE0],   -- D at 0x091
    [0xF0, 0x80, 0xF0, 0x80, 0xF0],   -- E at 0x096
    [0xF0, 0x80, 0xF0, 0x80, 0x80] ]  -- F at 0x09B

/-- FONT: the 80 bytes in address order (00_scope.md R7). -/
def fontTable : List Byte := fontGlyphs.flatten

end Sys2Proof.Machine
end

