-- ==== Sys2Proof/Config.lean ====
section
/-! DEFINITION. The parameters of 00_scope.md R7 that no rule leaves open, and the one free value: the random byte. The
font table is a parameter too; it stands in Machine/Font.lean, KEY_SELECT in Machine/Operands.lean and SPRITE_EDGE in
Machine/Display.lean. -/

namespace Sys2Proof.Config

/-- MEM_SIZE: addresses 0x000 to 0xFFF (00_scope.md R7, 20_memory.md R60). -/
abbrev memSize : Nat := 0x1000

/-- PROG_BASE: where programs load and reset starts; below it lies the reserved area (00_scope.md R7, 20_memory.md R61). -/
abbrev progBase : Nat := 0x200

/-- MAX_ROM: the longest program `load` takes (00_scope.md R7, 70_reset_and_hazards.md R252). -/
abbrev maxRom : Nat := 3584

/-- FONT_BASE: the font lies at 0x050 to 0x09F (00_scope.md R7, 20_memory.md R61). -/
abbrev fontBase : Nat := 0x050

/-- The size of FONT: 16 glyphs of 5 bytes (00_scope.md R7, 20_memory.md R64). -/
abbrev fontSize : Nat := 80

/-- STACK_DEPTH (00_scope.md R7). -/
abbrev stackDepth : Nat := 16

/-- FB_WIDTH (00_scope.md R7). -/
abbrev fbWidth : Nat := 64

/-- FB_HEIGHT (00_scope.md R7). -/
abbrev fbHeight : Nat := 32

/-- RND, a FREE VALUE (10_state.md R46, 42_alu.md R163): the n-th random byte drawn. The spec places no law on it, so it
has no body, and a statement that mentions it holds whatever it is. DESIGN CHOICE, safe: notes/assumptions/1.md. -/
opaque rnd : Nat → Byte

end Sys2Proof.Config
end

