-- ==== Sys2Proof/Machine/State.lean ====
section
/-! DEFINITION. The state of the core as plain data: the tuple of 10_state.md R20 and the model's own draw counter
(notes/assumptions/1.md). -/

namespace Sys2Proof.Machine

/-- Memory: the listed (address, byte) pairs. An address that is not listed reads as `unlistedByte` says (Machine/Ops.lean:
what memory holds right after reset), and `Memory.wf` is the one canonical form. -/
abbrev Memory := List Host.Cell

/-- The fault causes of 60_exceptions.md R220. -/
inductive FaultCode where
  /-- 0: no fault; the core runs. -/
  | none
  /-- 1: 2NNN with sp = 16. -/
  | stackOverflow
  /-- 2: 00EE with sp = 0. -/
  | stackUnderflow
  /-- 3: the fetched word is in no row of the opcode table. -/
  | illegalOpcode
  /-- 4: pc > 0xFFE. -/
  | fetchBounds
  /-- 5: a data range reaches beyond 0xFFF (DXYN, FX33, FX55, FX65). -/
  | dataBounds
  /-- 6: a store below 0x200 (FX33, FX55). -/
  | reservedWrite
  /-- 7: VX is no key number (EX9E, EXA1). -/
  | keyIndex
  deriving DecidableEq, Repr

/-- The architectural state (10_state.md R20) and the model's draw counter. -/
structure State where
  /-- `mem` (10_state.md R35). -/
  mem : Memory
  /-- `V[0..15]` (10_state.md R21). -/
  v : Vector Byte 16
  /-- `I`, 16 bits, never masked (10_state.md R24). -/
  i : Word
  /-- `pc` (10_state.md R25). -/
  pc : Word
  /-- `stack[0..15]` (10_state.md R27). -/
  stack : Vector Word 16
  /-- `sp`, 0..16 (10_state.md R28). -/
  sp : Fin 17
  /-- `DT` (10_state.md R29). -/
  dt : Byte
  /-- `ST` (10_state.md R30). -/
  st : Byte
  /-- `fb[x][y]`, x in 0..63, y in 0..31 (10_state.md R31). -/
  fb : Vector (Vector Bool 32) 64
  /-- `key[0..15]`, true = pressed (10_state.md R32). -/
  key : Vector Bool 16
  /-- `dirty` (10_state.md R33). -/
  dirty : Bool
  /-- `FAULT_CODE` (10_state.md R34). -/
  faultCode : FaultCode
  /-- `FAULT_PC` (10_state.md R34). -/
  faultPc : Word
  /-- `FAULT_INFO` (10_state.md R34). -/
  faultInfo : Word
  /-- The MODEL's own field: how many random bytes have been drawn; `Config.rnd rndCount` is the next RND, a free value
  (10_state.md R46; DESIGN CHOICE, notes/assumptions/1.md). No statement rests on its value. -/
  rndCount : Nat
  deriving DecidableEq, Repr

/-- The reasons the MODEL can stop with a fault: there are none. Every fault of the spec is an entry that the step takes,
a next state with the fault status written (60_exceptions.md R221), and no rule leaves an instruction without an effect.
Raised by nobody; safe (notes/assumptions/2.md). -/
inductive Fault : Type
  deriving DecidableEq, Repr

/-- The reasons the model refuses an instruction. -/
inductive Refusal where
  /-- The instruction has no meaning yet. Raised by `exec`'s own arms only, and by none of them now; safe. -/
  | notModelled (mnemonic : String)
  deriving DecidableEq, Repr

/-- What `load` answers (70_reset_and_hazards.md R252, 60_exceptions.md R238). -/
inductive LoadResult where
  | ok
  | loadError
  deriving DecidableEq, Repr

/-- The outcome of a meaning and of a step. -/
abbrev Result := Host.Outcome State Fault Refusal

/-- The state right after reset: 10_state.md R49, 70_reset_and_hazards.md R250. Memory lists nothing, so it reads as
zeros and the font. The draw counter's 0 is a DESIGN CHOICE (notes/assumptions/1.md). -/
def State.reset : State where
  mem := []
  v := Vector.replicate 16 0
  i := 0
  pc := 0x200
  stack := Vector.replicate 16 0
  sp := 0
  dt := 0
  st := 0
  fb := Vector.replicate 64 (Vector.replicate 32 false)
  key := Vector.replicate 16 false
  dirty := false
  faultCode := .none
  faultPc := 0
  faultInfo := 0
  rndCount := 0

end Sys2Proof.Machine
end

