-- ==== Sys2Proof/Machine/Ops.lean ====
section
/-! DEFINITION. The named operations over memory and registers, taking a fault (60_exceptions.md R221) and the tick (R228).
There is no return from a fault: its only exit is `reset` (R224), a host operation (Machine/HostPorts.lean). -/

namespace Sys2Proof.Machine

open Sys2Proof

/-- What an unlisted address reads as: the contents of memory right after reset, FONT at 0x050 to 0x09F and zero elsewhere
(10_state.md R49, 70_reset_and_hazards.md R250). -/
def unlistedByte (a : Nat) : Byte :=
  if Config.fontBase ≤ a ∧ a < Config.fontBase + Config.fontSize then fontTable.getD (a - Config.fontBase) 0 else 0

/-- `mem[a]` for an address of the address space; the callers check the range (20_memory.md R60, R66). -/
def Memory.read : Memory → Nat → Byte
  | [], a => unlistedByte a
  | (b, u) :: rest, a => if a = b then u else Memory.read rest a

/-- List (a, u) at its place in rising order, in the place of an earlier entry for a. -/
def Memory.put : Memory → Nat → Byte → Memory
  | [], a, u => [(a, u)]
  | (b, w) :: rest, a, u =>
    if a < b then (a, u) :: (b, w) :: rest
    else if a = b then (a, u) :: rest
    else (b, w) :: Memory.put rest a u

/-- Take every entry for a out of the list. -/
def Memory.drop (m : Memory) (a : Nat) : Memory := m.filter fun c => c.1 ≠ a

/-- `mem[a] <- u`, keeping the canonical form: writing what an unlisted address reads as takes the entry out. -/
def Memory.write (m : Memory) (a : Nat) (u : Byte) : Memory :=
  if u = unlistedByte a then Memory.drop m a else Memory.put m a u

/-- The canonical form of memory: addresses strictly rising, all in 0x000 to 0xFFF (20_memory.md R60), and no entry equal to
what an unlisted address reads as. -/
def Memory.wf (m : Memory) : Bool :=
  decide (m.Pairwise fun c d => c.1 < d.1) && m.all fun c => decide (c.1 < Config.memSize) && c.2 != unlistedByte c.1

/-- The fault of MemRead(a, 1), if it raises one (20_memory.md R66). -/
def readFault (a : Nat) : Option FaultCode :=
  if a > 0xFFF then some .dataBounds else none

/-- The fault of MemWrite(a, 1, v), if it raises one (20_memory.md R67). -/
def writeFault (a : Nat) : Option FaultCode :=
  if a > 0xFFF then some .dataBounds
  else if a < Config.progBase then some .reservedWrite
  else none

/-- The first fault that `check` finds on the addresses a, a + 1, ..., a + n - 1 (20_memory.md R71: the whole range is
checked before any byte moves, and the first applicable fault is raised). -/
def firstFault (check : Nat → Option FaultCode) : Nat → Nat → Option FaultCode
  | _, 0 => none
  | a, n + 1 =>
    match check a with
    | some f => some f
    | none => firstFault check (a + 1) n

/-- The byte at address a. -/
def State.readByte (s : State) (a : Nat) : Byte := Memory.read s.mem a

/-- Store byte u at address a. -/
def State.writeByte (s : State) (a : Nat) (u : Byte) : State := { s with mem := Memory.write s.mem a u }

/-- `V[r]` (00_scope.md R10, 10_state.md R21). -/
def State.reg (s : State) (r : Reg) : Byte := s.v[r.toNat]

/-- `V[r] <- u` (00_scope.md R10, 10_state.md R21). -/
def State.setReg (s : State) (r : Reg) (u : Byte) : State := { s with v := s.v.set r.toNat u }

/-- `I <- u`. -/
def State.setI (s : State) (u : Word) : State := { s with i := u }

/-- `pc <- target` (10_state.md R26). -/
def State.setPc (s : State) (target : Word) : State := { s with pc := target }

/-- `pc <- pc + 2` (30_encoding.md R85; stored mod 2^16, 10_state.md R26). -/
def State.advance (s : State) : State := s.setPc (s.pc + 2)

/-- A skip: `pc <- pc + 4` when the condition holds, `pc <- pc + 2` otherwise (41_control_flow.md R130). -/
def State.skipIf (s : State) (c : Bool) : State := s.setPc (if c then s.pc + 4 else s.pc + 2)

/-- `DT <- u`. -/
def State.setDt (s : State) (u : Byte) : State := { s with dt := u }

/-- `ST <- u`. -/
def State.setSt (s : State) (u : Byte) : State := { s with st := u }

/-- `key[k]` (10_state.md R32). -/
def State.keyDown (s : State) (k : Reg) : Bool := s.key[k.toNat]

/-- `fb[x][y]`; a coordinate off the grid has no pixel and reads as unlit (10_state.md R31). -/
def State.pixel (s : State) (x y : Nat) : Bool :=
  if h : x < 64 ∧ y < 32 then s.fb[x][y] else false

/-- `fb[x][y] <- fb[x][y] ^ 1`; nothing for a coordinate off the grid. -/
def State.togglePixel (s : State) (x y : Nat) : State :=
  if h : x < 64 ∧ y < 32 then { s with fb := s.fb.set x (s.fb[x].set y (!s.fb[x][y])) } else s

/-- `fb[x][y] <- 0` for every pixel (40_display.md R111). -/
def State.clearPixels (s : State) : State := { s with fb := Vector.replicate 64 (Vector.replicate 32 false) }

/-- `dirty <- 1` (10_state.md R33). -/
def State.setDirty (s : State) : State := { s with dirty := true }

/-- `stack[sp] <- pc; sp <- sp + 1`, for sp < 16 (41_control_flow.md R133). -/
def State.pushPc (s : State) (h : s.sp.val < 16) : State :=
  { s with stack := s.stack.set s.sp.val s.pc, sp := ⟨s.sp.val + 1, by omega⟩ }

/-- `sp <- sp - 1`, for sp > 0; the entry keeps its value (41_control_flow.md R131, 10_state.md R27). -/
def State.popSp (s : State) : State := { s with sp := ⟨s.sp.val - 1, by omega⟩ }

/-- `stack[sp - 1]`, the most recent return address when sp > 0; the callers check that (10_state.md R28). -/
def State.stackTop (s : State) : Word := s.stack[s.sp.val - 1]

/-- The next random byte RND (10_state.md R46): a free value. -/
def State.rndByte (s : State) : Byte := Config.rnd s.rndCount

/-- One random byte has been drawn. -/
def State.drawn (s : State) : State := { s with rndCount := s.rndCount + 1 }

/-- Taking a fault, the one entry of 60_exceptions.md R221: the code, the pc of the faulting instruction and the information
are recorded; nothing else changes, and the pc stays where it is. -/
def State.raiseFault (s : State) (f : FaultCode) (info : Word) : State :=
  { s with faultCode := f, faultPc := s.pc, faultInfo := info }

/-- The value of `FAULT_CODE`, 0 to 7 (60_exceptions.md R220). -/
def FaultCode.code : FaultCode → BitVec 3
  | .none => 0
  | .stackOverflow => 1
  | .stackUnderflow => 2
  | .illegalOpcode => 3
  | .fetchBounds => 4
  | .dataBounds => 5
  | .reservedWrite => 6
  | .keyIndex => 7

/-- A core with `FAULT_CODE ≠ 0` is halted (10_state.md R34, 60_exceptions.md R223). -/
def State.halted (s : State) : Bool := s.faultCode != .none

/-- One timer's part of the tick: down by one, and it stays at 0 (60_exceptions.md R228). -/
def tickTimer (t : Byte) : Byte := if t > 0 then t - 1 else t

/-- Tick() (60_exceptions.md R228). -/
def State.tick (s : State) : State := { s with dt := tickTimer s.dt, st := tickTimer s.st }

end Sys2Proof.Machine
end

