-- ==== Sys2Proof/Machine/Cycle.lean ====
section
/-! DEFINITION. The parts of a step around Execute: fetch and decode before it, the end of the step after it
(30_encoding.md R80 to R86). -/

namespace Sys2Proof.Machine

open Sys2Proof

/-- Fetch the two bytes at pc and pc + 1, big-endian (30_encoding.md R83). -/
def State.fetchWord (s : State) : Word :=
  wordOfBytes (s.readByte s.pc.toNat) (s.readByte (s.pc.toNat + 1))

/-- Fetch and decode: the instruction at pc, or the fault and its information in the order of 30_encoding.md R80 (R82, R96;
60_exceptions.md R225). -/
def State.fetchDecode (s : State) : Except (FaultCode × Word) Instr :=
  if s.pc.toNat > 0xFFE then .error (.fetchBounds, s.pc)
  else
    match decode s.fetchWord with
    | .ok i => .ok i
    | .error _ => .error (.illegalOpcode, s.fetchWord)

/-- The end of a step whose execution left the core running is the tick; one whose execution raised a fault does not tick
(30_encoding.md R80, R86; 60_exceptions.md R221). -/
def State.endStep (s : State) : State := if s.halted then s else s.tick

/-- `endStep` on the outcome of an execution. -/
def endOutcome : Result → Result
  | .next s => .next s.endStep
  | .fault r => .fault r
  | .refused r => .refused r

end Sys2Proof.Machine
end

