-- ==== Sys2Proof/Machine/Flags.lean ====
section
/-! DEFINITION. The values written to VF (10_state.md R22): carry, strict comparison, shifted-out bits, collision. -/

namespace Sys2Proof.Machine

open Sys2Proof

/-- A condition as a flag value: 1 or 0. -/
def flagOf (c : Bool) : Byte := if c then 1 else 0

/-- "1 if the untruncated sum exceeds 255, else 0" (42_alu.md R158). -/
def carryFlag (a b : Byte) : Byte := flagOf (decide (a.toNat + b.toNat > 255))

/-- 1 if a > b, strictly, else 0: the flag of both subtractions (42_alu.md R159, R161; 90_conflicts.md C3). -/
def greaterFlag (a b : Byte) : Byte := flagOf (decide (a.toNat > b.toNat))

/-- The least significant bit before a right shift (42_alu.md R160). -/
def shrFlag (a : Byte) : Byte := a &&& 1

/-- The most significant bit before a left shift (42_alu.md R162). -/
def shlFlag (a : Byte) : Byte := (a >>> 7) &&& 1

/-- The collision flag of DXYN (40_display.md R112). -/
def collisionFlag (c : Bool) : Byte := flagOf c

end Sys2Proof.Machine
end

