-- ==== Sys2Proof/Machine/Operands.lean ====
section
/-! DEFINITION. The operand forms (30_encoding.md R89): zero-extended immediates, register ranges V0..VX, the addresses I + k,
key numbers, and the sprite row. There are no other operand forms. -/

namespace Sys2Proof.Machine

open Sys2Proof

/-- `zext_16` of an 8-bit value (00_scope.md R9, 30_encoding.md R89). -/
def zextByte (u : Byte) : Word := u.setWidth 16

/-- `zext_16(NNN)` (30_encoding.md R89). -/
def zextAddr (nnn : Addr) : Word := nnn.setWidth 16

/-- The register with number k (mod 16), for the ranges V0..VX of FX55 and FX65. -/
def regOf (k : Nat) : Reg := BitVec.ofNat 4 k

/-- The effective address I + k, an unbounded integer (43_index_memory.md R187). -/
def State.dataAddr (s : State) (k : Nat) : Nat := s.i.toNat + k

/-- The fault of reading the n bytes at I .. I+n-1, if any (20_memory.md R66, R71). -/
def State.loadRangeFault (s : State) (n : Nat) : Option FaultCode := firstFault readFault (s.dataAddr 0) n

/-- The fault of storing the n bytes at I .. I+n-1, if any (20_memory.md R67, R71). -/
def State.storeRangeFault (s : State) (n : Nat) : Option FaultCode := firstFault writeFault (s.dataAddr 0) n

/-- FX33's digits of v: hundreds, tens, ones (43_index_memory.md R184). -/
def bcdDigits (u : Byte) : List Byte :=
  [BitVec.ofNat 8 (u.toNat / 100), BitVec.ofNat 8 (u.toNat / 10 % 10), BitVec.ofNat 8 (u.toNat % 10)]

/-- Store bytes at a, a + 1, ... in that order (20_memory.md R68). -/
def State.writeBytes (s : State) : Nat → List Byte → State
  | _, [] => s
  | a, u :: rest => (s.writeByte a u).writeBytes (a + 1) rest

/-- The values of V0..VX in order (43_index_memory.md R185). -/
def State.regsUpTo (s : State) (x : Reg) : List Byte :=
  (List.range (x.toNat + 1)).map fun k => s.reg (regOf k)

/-- `for k in 0 .. X: V[k] <- MemRead(I + k, 1)` (43_index_memory.md R186). -/
def State.loadRegs (s : State) (x : Reg) : State :=
  (List.range (x.toNat + 1)).foldl (fun t k => t.setReg (regOf k) (t.readByte (t.dataAddr k))) s

/-- The key numbered by a register's value, if it is a key number; the value is not masked (44_keypad_timers.md R201). -/
def keyNumber? (u : Byte) : Option Reg := if u.toNat > 0xF then none else some (u.setWidth 4)

/-- KEY_SELECT: the lowest-numbered pressed key (44_keypad_timers.md R204, R207). -/
def State.selectKey (s : State) : Option Reg :=
  ((List.range 16).map regOf).find? s.keyDown

/-- FX29's address of the glyph for a digit: 0x050 + 5 * VX, VX not masked (43_index_memory.md R183). -/
def glyphAddr (u : Byte) : Word := BitVec.ofNat 16 (Config.fontBase + 5 * u.toNat)

/-- The column of the sprite's origin: VX mod 64 (40_display.md R113). -/
def originX (u : Byte) : Nat := u.toNat % 64

/-- The row of the sprite's origin: VY mod 32 (40_display.md R113). -/
def originY (u : Byte) : Nat := u.toNat % 32

/-- Column c of a sprite byte: bit 7 is column 0 (40_display.md R114). -/
def spriteBit (b : Byte) (c : Nat) : Bool := b.getLsbD (7 - c)

end Sys2Proof.Machine
end

