-- ==== Sys2Proof/Machine/Alu.lean ====
section
/-! DEFINITION. The register and arithmetic instructions (42_alu.md). Statements run in order, and each reads the registers
as the ones before it left them (00_scope.md R11): that decides the results when X or Y is 0xF (42_alu.md R165). -/

namespace Sys2Proof.Machine

open Sys2Proof

/-- 6XNN LD Vx, nn (42_alu.md R151). -/
def execLdImm (x : Reg) (nn : Byte) (s : State) : Result := .next (s.setReg x nn).advance

/-- 7XNN ADD Vx, nn: no flag (42_alu.md R152). -/
def execAddImm (x : Reg) (nn : Byte) (s : State) : Result := .next (s.setReg x (s.reg x + nn)).advance

/-- 8XY0 LD Vx, Vy (42_alu.md R153). -/
def execLdReg (x y : Reg) (s : State) : Result := .next (s.setReg x (s.reg y)).advance

/-- 8XY1 OR Vx, Vy: no flag (42_alu.md R154, R157). -/
def execOr (x y : Reg) (s : State) : Result := .next (s.setReg x (s.reg x ||| s.reg y)).advance

/-- 8XY2 AND Vx, Vy: no flag (42_alu.md R155, R157). -/
def execAnd (x y : Reg) (s : State) : Result := .next (s.setReg x (s.reg x &&& s.reg y)).advance

/-- 8XY3 XOR Vx, Vy: no flag (42_alu.md R156, R157). -/
def execXor (x y : Reg) (s : State) : Result := .next (s.setReg x (s.reg x ^^^ s.reg y)).advance

/-- 8XY4 ADD Vx, Vy: the sum first, then the carry into VF (42_alu.md R158). -/
def execAddReg (x y : Reg) (s : State) : Result :=
  let sum := s.reg x + s.reg y
  let carry := carryFlag (s.reg x) (s.reg y)
  .next ((s.setReg x sum).setReg Reg.vf carry).advance

/-- 8XY5 SUB Vx, Vy: VF first, then the subtraction on the registers as they then are (42_alu.md R159). -/
def execSub (x y : Reg) (s : State) : Result :=
  let t := s.setReg Reg.vf (greaterFlag (s.reg x) (s.reg y))
  .next (t.setReg x (t.reg x - t.reg y)).advance

/-- 8XY6 SHR Vx, Vy: VF first, then the logical shift of VX; Y is not read (42_alu.md R160). -/
def execShr (x _y : Reg) (s : State) : Result :=
  let t := s.setReg Reg.vf (shrFlag (s.reg x))
  .next (t.setReg x (t.reg x >>> 1)).advance

/-- 8XY7 SUBN Vx, Vy: VF first, then the subtraction on the registers as they then are (42_alu.md R161). -/
def execSubn (x y : Reg) (s : State) : Result :=
  let t := s.setReg Reg.vf (greaterFlag (s.reg y) (s.reg x))
  .next (t.setReg x (t.reg y - t.reg x)).advance

/-- 8XYE SHL Vx, Vy: VF first, then the shift of VX; Y is not read (42_alu.md R162). -/
def execShl (x _y : Reg) (s : State) : Result :=
  let t := s.setReg Reg.vf (shlFlag (s.reg x))
  .next (t.setReg x (t.reg x <<< 1)).advance

/-- CXNN RND Vx, nn: the step's free random byte, masked (42_alu.md R163, 10_state.md R46). -/
def execRnd (x : Reg) (nn : Byte) (s : State) : Result :=
  .next (s.drawn.setReg x (s.rndByte &&& nn)).advance

end Sys2Proof.Machine
end

