-- ==== Sys2Proof/Machine/ControlFlow.lean ====
section
/-! DEFINITION. The control-flow instructions (41_control_flow.md). -/

namespace Sys2Proof.Machine

open Sys2Proof

/-- 00EE RET (41_control_flow.md R131). -/
def execRet (s : State) : Result :=
  if s.sp.val = 0 then .next (s.raiseFault .stackUnderflow 0)
  else .next (s.popSp.setPc (s.stackTop + 2))

/-- 1NNN JP nnn (41_control_flow.md R132). -/
def execJp (nnn : Addr) (s : State) : Result := .next (s.setPc (zextAddr nnn))

/-- 2NNN CALL nnn (41_control_flow.md R133). -/
def execCall (nnn : Addr) (s : State) : Result :=
  if h : s.sp.val < 16 then .next ((s.pushPc h).setPc (zextAddr nnn))
  else .next (s.raiseFault .stackOverflow (zextAddr nnn))

/-- 3XNN SE Vx, nn (41_control_flow.md R134). -/
def execSeImm (x : Reg) (nn : Byte) (s : State) : Result := .next (s.skipIf (s.reg x == nn))

/-- 4XNN SNE Vx, nn (41_control_flow.md R135). -/
def execSneImm (x : Reg) (nn : Byte) (s : State) : Result := .next (s.skipIf (s.reg x != nn))

/-- 5XY0 SE Vx, Vy (41_control_flow.md R136). -/
def execSeReg (x y : Reg) (s : State) : Result := .next (s.skipIf (s.reg x == s.reg y))

/-- 9XY0 SNE Vx, Vy (41_control_flow.md R137). -/
def execSneReg (x y : Reg) (s : State) : Result := .next (s.skipIf (s.reg x != s.reg y))

/-- BNNN JP V0, nnn: the sum is not reduced mod 4096 (41_control_flow.md R138). -/
def execJpV0 (nnn : Addr) (s : State) : Result := .next (s.setPc (zextAddr nnn + zextByte (s.reg 0)))

end Sys2Proof.Machine
end

