-- ==== Sys2Proof/Machine/Display.lean ====
section
/-! DEFINITION. The display instructions 00E0 and DXYN (40_display.md). -/

namespace Sys2Proof.Machine

open Sys2Proof

/-- 00E0 CLS (40_display.md R111). -/
def execCls (s : State) : Result := .next s.clearPixels.setDirty.advance

/-- The body of DXYN's inner loop for one set sprite bit at (px, py), on the state and the collision so far. SPRITE_EDGE is
CLIP: a pixel off the grid is not drawn and does not collide (40_display.md R112, R113). -/
def drawPixel (px py : Nat) (d : State × Bool) : State × Bool :=
  if px < 64 ∧ py < 32 then (d.1.togglePixel px py, d.2 || d.1.pixel px py) else d

/-- `for c in 0 .. 7` of one sprite row with byte b, drawn from column x0 on row py (40_display.md R112). -/
def drawRow (x0 py : Nat) (b : Byte) (d : State × Bool) : State × Bool :=
  (List.range 8).foldl (fun e c => if spriteBit b c then drawPixel (x0 + c) py e else e) d

/-- `for r in 0 .. N-1`: sprite row r is the byte at I + r, drawn on row y0 + r (40_display.md R112, R114). -/
def drawRows (x0 y0 n : Nat) (d : State × Bool) : State × Bool :=
  (List.range n).foldl (fun e r => drawRow x0 (y0 + r) (e.1.readByte (e.1.dataAddr r)) e) d

/-- DXYN DRW Vx, Vy, n (40_display.md R112 to R115). -/
def execDrw (x y : Reg) (n : Nibble) (s : State) : Result :=
  match s.loadRangeFault n.toNat with
  | some f => .next (s.raiseFault f s.i)
  | none =>
    let d := drawRows (originX (s.reg x)) (originY (s.reg y)) n.toNat (s, false)
    .next ((d.1.setReg Reg.vf (collisionFlag d.2)).setDirty.advance)

end Sys2Proof.Machine
end

