-- ==== Sys2Proof/Machine/IndexMemory.lean ====
section
/-! DEFINITION. The index register and memory instructions (43_index_memory.md). None of FX33, FX55, FX65 changes I (R180). -/

namespace Sys2Proof.Machine

open Sys2Proof

/-- ANNN LD I, nnn (43_index_memory.md R181). -/
def execLdI (nnn : Addr) (s : State) : Result := .next (s.setI (zextAddr nnn)).advance

/-- FX1E ADD I, Vx: 16-bit, no flag (43_index_memory.md R182). -/
def execAddIVx (x : Reg) (s : State) : Result := .next (s.setI (s.i + zextByte (s.reg x))).advance

/-- FX29 LD F, Vx (43_index_memory.md R183). -/
def execLdFVx (x : Reg) (s : State) : Result := .next (s.setI (glyphAddr (s.reg x))).advance

/-- FX33 LD B, Vx (43_index_memory.md R184). -/
def execLdBVx (x : Reg) (s : State) : Result :=
  match s.storeRangeFault 3 with
  | some f => .next (s.raiseFault f s.i)
  | none => .next (s.writeBytes (s.dataAddr 0) (bcdDigits (s.reg x))).advance

/-- FX55 LD [I], Vx (43_index_memory.md R185). -/
def execLdMemVx (x : Reg) (s : State) : Result :=
  match s.storeRangeFault (x.toNat + 1) with
  | some f => .next (s.raiseFault f s.i)
  | none => .next (s.writeBytes (s.dataAddr 0) (s.regsUpTo x)).advance

/-- FX65 LD Vx, [I] (43_index_memory.md R186). -/
def execLdVxMem (x : Reg) (s : State) : Result :=
  match s.loadRangeFault (x.toNat + 1) with
  | some f => .next (s.raiseFault f s.i)
  | none => .next (s.loadRegs x).advance

end Sys2Proof.Machine
end

