-- ==== Sys2Proof/Machine/KeypadTimers.lean ====
section
/-! DEFINITION. The keypad and timer instructions (44_keypad_timers.md). The tick that follows each of them in the same step
is the step's (Machine/Cycle.lean). -/

namespace Sys2Proof.Machine

open Sys2Proof

/-- EX9E SKP Vx (44_keypad_timers.md R201). -/
def execSkp (x : Reg) (s : State) : Result :=
  match keyNumber? (s.reg x) with
  | none => .next (s.raiseFault .keyIndex (zextByte (s.reg x)))
  | some k => .next (s.skipIf (s.keyDown k))

/-- EXA1 SKNP Vx (44_keypad_timers.md R202). -/
def execSknp (x : Reg) (s : State) : Result :=
  match keyNumber? (s.reg x) with
  | none => .next (s.raiseFault .keyIndex (zextByte (s.reg x)))
  | some k => .next (s.skipIf (!s.keyDown k))

/-- FX07 LD Vx, DT (44_keypad_timers.md R203). -/
def execLdVxDt (x : Reg) (s : State) : Result := .next (s.setReg x s.dt).advance

/-- FX0A LD Vx, K: with no key pressed nothing is written and pc stays, so that the word is fetched again
(44_keypad_timers.md R204). -/
def execLdVxK (x : Reg) (s : State) : Result :=
  match s.selectKey with
  | some k => .next (s.setReg x (k.setWidth 8)).advance
  | none => .next s

/-- FX15 LD DT, Vx (44_keypad_timers.md R205). -/
def execLdDtVx (x : Reg) (s : State) : Result := .next (s.setDt (s.reg x)).advance

/-- FX18 LD ST, Vx (44_keypad_timers.md R206). -/
def execLdStVx (x : Reg) (s : State) : Result := .next (s.setSt (s.reg x)).advance

end Sys2Proof.Machine
end

