-- ==== Sys2Proof/Machine/Step.lean ====
section
/-! DEFINITION. One step of the core (30_encoding.md R80) and the placing of an instruction where it fetches. -/

namespace Sys2Proof.Machine

open Sys2Proof

/-- `step(RND)` (30_encoding.md R80): a halted core does nothing (R81); otherwise fetch, decode, execute, tick, or the entry
of the first fault. RND comes from the free value `Config.rnd`. -/
def step (s : State) : Host.Outcome State Fault Refusal :=
  if s.halted then .next s
  else
    match s.fetchDecode with
    | .error (f, info) => .next (s.raiseFault f info)
    | .ok i => endOutcome (exec i s)

/-- The state with the table word `w` of `nbits` bits stored at pc and pc + 1, in the byte order of 20_memory.md R69. It
stands for the part of a program load that matters to the next step (notes/assumptions/6.md). -/
def State.withFetchWord (s : State) (nbits w : Nat) : State :=
  (s.writeByte s.pc.toNat (hiByte (tableWord nbits w))).writeByte (s.pc.toNat + 1) (loByte (tableWord nbits w))

end Sys2Proof.Machine
end

