-- ==== Sys2Proof/Machine/HostPorts.lean ====
section
/-! DEFINITION. The host's operations and ports (10_state.md R40 to R48; 70_reset_and_hazards.md R250, R252). They act between
steps only (R258), so none of them is part of `step`. -/

namespace Sys2Proof.Machine

open Sys2Proof

/-- `reset()` (70_reset_and_hazards.md R250): every component of 10_state.md R20 at its value of R49. The model's own draw
counter goes on, so that the random bytes after a reset are free of those before it (notes/assumptions/1.md). -/
def State.hostReset (s : State) : State := { State.reset with rndCount := s.rndCount }

/-- `load(bytes)` (70_reset_and_hazards.md R252, 60_exceptions.md R238): memory only, and nothing at all when the program is
too long. -/
def State.load (s : State) (bytes : List Byte) : LoadResult × State :=
  if bytes.length > Config.maxRom then (.loadError, s) else (.ok, s.writeBytes Config.progBase bytes)

/-- `set_key(k, b)` (10_state.md R41). -/
def State.setKey (s : State) (k : Reg) (b : Bool) : State := { s with key := s.key.set k.toNat b }

/-- `read_dirty()`: the flag, and the state with it cleared (10_state.md R43). -/
def State.readDirty (s : State) : Bool × State := (s.dirty, { s with dirty := false })

/-- `sound_active` (10_state.md R44). -/
def State.soundActive (s : State) : Bool := s.st != 0

/-- `read_fault()` (10_state.md R45). -/
def State.readFault (s : State) : BitVec 3 × Word × Word := (s.faultCode.code, s.faultPc, s.faultInfo)

/-- What a step that ended in this state returned: 0 is OK, any other value the FAULT_CODE (10_state.md R48). -/
def State.stepResult (s : State) : BitVec 3 := s.faultCode.code

/-- Whether the core waits for a key: the word at pc is an FX0A and no key is pressed (10_state.md R39). DESIGN CHOICE: a halted
core does not wait, whatever word a later load puts at its pc, and no word is at a pc above 0xFFE; R39 says neither
(notes/assumptions/13.md). -/
def State.waiting (s : State) : Bool :=
  match s.fetchDecode with
  | .ok (.ldVxK _) => !s.halted && s.selectKey.isNone
  | _ => false

/-- The host's moves that can change the state (10_state.md R40, R41, R43); the other ports only read. -/
inductive HostOp where
  | reset
  | load (bytes : List Byte)
  | step
  | setKey (k : Reg) (b : Bool)
  | readDirty
  deriving DecidableEq, Repr

/-- The state after one move of the host. -/
def State.hostMove (s : State) : HostOp → Result
  | .reset => .next s.hostReset
  | .load bytes => .next (s.load bytes).2
  | .step => step s
  | .setKey k b => .next (s.setKey k b)
  | .readDirty => .next s.readDirty.2

end Sys2Proof.Machine
end

