-- ==== Sys2Proof/Safety.lean ====
section
/-! DEFINITION. What counts as a safe run: the states the host can bring the core to, and the invariants claims use. -/

namespace Sys2Proof

open Sys2Proof.Machine

/-- The states reached from reset by any sequence of the host's moves (10_state.md R40, R49; 70_reset_and_hazards.md R264). -/
inductive Reachable : State → Prop where
  | reset : Reachable State.reset
  | move {s t : State} (op : HostOp) (h : Reachable s) (hm : s.hostMove op = .next t) : Reachable t

/-- No step can change the reserved area: it reads as right after reset (20_memory.md R61, R65, R67). -/
abbrev ReservedIntact (s : State) : Prop := ∀ a, a < Config.progBase → s.readByte a = State.reset.readByte a

/-- The bound of 10_state.md R26 on pc, with the bound on the stack's entries that it rests on: each is the address of a 2NNN
that was fetched (R27, 30_encoding.md R82). -/
abbrev PcBounded (s : State) : Prop := s.pc.toNat ≤ 0x10FE ∧ ∀ k : Reg, (s.stack[k.toNat]).toNat ≤ 0xFFE

/-- The fault status is all zero while the core runs, and a halted core's FAULT_PC is its pc (10_state.md R34,
60_exceptions.md R221, R223). -/
abbrev FaultStatusSound (s : State) : Prop :=
  (s.faultCode = .none → s.faultPc = 0 ∧ s.faultInfo = 0) ∧ (s.faultCode ≠ .none → s.faultPc = s.pc)

/-- The sprite DXYN draws, as a picture of its own: whether the n-row sprite at I has a set bit for the pixel (px, py) when
its origin is (x0, y0). Row r is the byte at I + r; bit 7 is column x0 (40_display.md R114). -/
def spriteLit (s : State) (x0 y0 n px py : Nat) : Bool :=
  decide (x0 ≤ px ∧ px < x0 + 8 ∧ y0 ≤ py ∧ py < y0 + n) &&
    (s.readByte (s.i.toNat + (py - y0))).getLsbD (7 - (px - x0))

/-- A running core fetches the instruction i: pc is fetchable and the word there decodes to i (30_encoding.md R80). -/
abbrev Fetches (s : State) (i : Instr) : Prop :=
  s.faultCode = .none ∧ s.pc.toNat ≤ 0xFFE ∧ decode s.fetchWord = .ok i

/-- The fault table of 60_exceptions.md R220 for the next step of a running core: the step's fault is f, with this
FAULT_INFO. The illegal words are read off the opcode table (30_encoding.md R90, R96), not off the decoder. -/
def FaultCause (s : State) (f : FaultCode) (info : Word) : Prop :=
  match f with
  | .none => False
  | .stackOverflow => ∃ nnn, Fetches s (.call nnn) ∧ s.sp.val = 16 ∧ info.toNat = nnn.toNat
  | .stackUnderflow => Fetches s .ret ∧ s.sp.val = 0 ∧ info = 0
  | .illegalOpcode =>
    s.faultCode = .none ∧ s.pc.toNat ≤ 0xFFE ∧ WellFormedWord s.fetchWord = false ∧ info = s.fetchWord
  | .fetchBounds => s.faultCode = .none ∧ s.pc.toNat > 0xFFE ∧ info = s.pc
  | .dataBounds =>
    info = s.i ∧
      ((∃ x y n, Fetches s (.drw x y n) ∧ n.toNat > 0 ∧ s.i.toNat + (n.toNat - 1) > 0xFFF) ∨
       (∃ x, Fetches s (.ldBVx x) ∧ s.i.toNat + 2 > 0xFFF) ∨
       (∃ x, Fetches s (.ldMemVx x) ∧ s.i.toNat + x.toNat > 0xFFF) ∨
       (∃ x, Fetches s (.ldVxMem x) ∧ s.i.toNat + x.toNat > 0xFFF))
  | .reservedWrite =>
    info = s.i ∧ s.i.toNat < 0x200 ∧ ((∃ x, Fetches s (.ldBVx x)) ∨ ∃ x, Fetches s (.ldMemVx x))
  | .keyIndex =>
    ∃ x, (Fetches s (.skp x) ∨ Fetches s (.sknp x)) ∧ (s.reg x).toNat > 0xF ∧ info.toNat = (s.reg x).toNat

/-- Whether the instruction reads general register r: the column "reads V" of 10_state.md R23. -/
def Instr.readsReg (i : Instr) (r : Reg) : Bool :=
  match i with
  | .cls | .ret | .jp _ | .call _ | .ldI _ => false
  | .ldImm _ _ | .rnd _ _ | .ldVxDt _ | .ldVxK _ | .ldVxMem _ => false
  | .seImm x _ | .sneImm x _ | .addImm x _ => r == x
  | .skp x | .sknp x | .ldDtVx x | .ldStVx x | .addIVx x | .ldFVx x | .ldBVx x => r == x
  | .seReg x y | .sneReg x y | .drw x y _ => r == x || r == y
  | .orReg x y | .andReg x y | .xorReg x y | .addReg x y | .sub x y | .subn x y => r == x || r == y
  | .ldReg _ y => r == y
  | .shr x _ | .shl x _ => r == x
  | .jpV0 _ => r == 0
  | .ldMemVx x => decide (r.toNat ≤ x.toNat)

/-- Whether the instruction can write general register r: the column "writes V" of 10_state.md R23. -/
def Instr.writesReg (i : Instr) (r : Reg) : Bool :=
  match i with
  | .cls | .ret | .jp _ | .call _ | .ldI _ | .jpV0 _ => false
  | .seImm _ _ | .sneImm _ _ | .seReg _ _ | .sneReg _ _ | .skp _ | .sknp _ => false
  | .ldDtVx _ | .ldStVx _ | .addIVx _ | .ldFVx _ | .ldBVx _ | .ldMemVx _ => false
  | .drw _ _ _ => r == 0xF
  | .ldImm x _ | .rnd x _ | .ldVxDt x | .ldVxK x | .addImm x _ => r == x
  | .ldReg x _ | .orReg x _ | .andReg x _ | .xorReg x _ => r == x
  | .addReg x _ | .sub x _ | .subn x _ | .shr x _ | .shl x _ => r == x || r == 0xF
  | .ldVxMem x => decide (r.toNat ≤ x.toNat)

/-- Every byte of memory reads as before. -/
abbrev SameBytes (s t : State) : Prop := ∀ a, t.readByte a = s.readByte a

/-- Every byte of memory outside a .. a + n - 1 reads as before. -/
abbrev SameBytesOutside (s t : State) (a n : Nat) : Prop := ∀ b, b < a ∨ a + n ≤ b → t.readByte b = s.readByte b

/-- Frame of the instructions that move pc alone: every other field is as before. -/
abbrev OnlyPcChanges (s t : State) : Prop := t = { s with pc := t.pc } ∧ SameBytes s t

/-- Frame of the register instructions: general registers and pc may change, every other field is as before. -/
abbrev OnlyRegsAndPcChange (s t : State) : Prop := t = { s with v := t.v, pc := t.pc } ∧ SameBytes s t

/-- Every general register but x is as before. -/
abbrev OtherRegsKept (s t : State) (x : Reg) : Prop := ∀ r, r ≠ x → t.reg r = s.reg r

/-- The entry of a fault, written out: the fault status alone changes (60_exceptions.md R221). -/
abbrev Faulted (s : State) (f : FaultCode) (info : Word) : State :=
  { s with faultCode := f, faultPc := s.pc, faultInfo := info }

end Sys2Proof
end

