-- ==== Sys2Proof/Certificates/Slice0/Obligations.lean ====
section
/-! DEFINITION. The statements for the provers, each with the rule of spec/ it formalises. -/

open Sys2Proof Sys2Proof.Machine

/-! ### Encoding and decoding -/

/-- Decoding the encoding of any instruction gives it back, as a word and as the front of any byte sequence
(30_encoding.md R83, R84, R87, R88). -/
def Obligations.DecodeEncodeRoundTrip : Prop :=
  ∀ (i : Instr) (rest : List Byte),
    decode (encode i) = .ok i ∧ decodeBytes (encodeBytes i ++ rest) = .ok (i, rest)

/-- A word that decodes is the encoding of what it decodes to: no bit of a legal word is ignored, and no two legal words are
one instruction (30_encoding.md R84, R88). -/
def Obligations.EncodeOfDecodedWord : Prop :=
  ∀ (w : Word) (i : Instr), decode w = .ok i → encode i = w

/-- The decoder, written by family (R91), answers the unique row of the opcode table that matches the word, with its fields,
or rejects the word when no row matches (30_encoding.md R84; that no two rows match one word is the spec's own check of R90). -/
def Obligations.DecodeFollowsOpcodeTable : Prop :=
  ∀ w : Word,
    (∀ i, decode w = .ok i →
      encode i = w ∧ ∃ r ∈ opcodeTable, r.matchesWord w = true ∧ r.pattern = i.pattern ∧
        ∀ q ∈ opcodeTable, q.matchesWord w = true → q = r) ∧
    (decode w = .error (.illegal w) ↔ ∀ r ∈ opcodeTable, r.matchesWord w = false) ∧
    ((∃ r ∈ opcodeTable, r.matchesWord w = true) → ∃ i, decode w = .ok i)

/-- The fields of a word as numbers (30_encoding.md R88). -/
def Obligations.WordFieldsExtracted : Prop :=
  ∀ w : Word,
    (opField w).toNat = w.toNat / 4096 ∧ (xField w).toNat = w.toNat / 256 % 16 ∧
    (yField w).toNat = w.toNat / 16 % 16 ∧ (nField w).toNat = w.toNat % 16 ∧
    (nnField w).toNat = w.toNat % 256 ∧ (nnnField w).toNat = w.toNat % 4096

/-- The illegal words are exactly those of the table of 30_encoding.md R96, and the core rejects each with itself. -/
def Obligations.IllegalWordsAreExactly : Prop :=
  ∀ w : Word,
    (decode w = .error (.illegal w) ↔
      (w.toNat / 0x1000 = 0x0 ∧ w ≠ 0x00E0 ∧ w ≠ 0x00EE) ∨
      (w.toNat / 0x1000 = 0x5 ∧ w.toNat % 16 ≠ 0) ∨
      (w.toNat / 0x1000 = 0x8 ∧ w.toNat % 16 ∈ [0x8, 0x9, 0xA, 0xB, 0xC, 0xD, 0xF]) ∨
      (w.toNat / 0x1000 = 0x9 ∧ w.toNat % 16 ≠ 0) ∨
      (w.toNat / 0x1000 = 0xE ∧ w.toNat % 256 ∉ [0x9E, 0xA1]) ∨
      (w.toNat / 0x1000 = 0xF ∧
        w.toNat % 256 ∉ [0x07, 0x0A, 0x15, 0x18, 0x1E, 0x29, 0x33, 0x55, 0x65])) ∧
    ((∃ i, decode w = .ok i) ∨ decode w = .error (.illegal w))

/-- Words written out from the spec's encodings, one or more of each family (30_encoding.md R90). -/
def Obligations.SpecWordsDecode : Prop :=
  decode 0x00E0 = .ok .cls ∧ decode 0xD125 = .ok (.drw 1 2 5) ∧
  decode 0x00EE = .ok .ret ∧ decode 0x2345 = .ok (.call 0x345) ∧ decode 0x9AB0 = .ok (.sneReg 0xA 0xB) ∧
  decode 0x8AB5 = .ok (.sub 0xA 0xB) ∧ decode 0x8ABE = .ok (.shl 0xA 0xB) ∧ decode 0xC30F = .ok (.rnd 3 0x0F) ∧
  decode 0xA123 = .ok (.ldI 0x123) ∧ decode 0xF233 = .ok (.ldBVx 2) ∧ decode 0xE4A1 = .ok (.sknp 4) ∧
  decode 0xF50A = .ok (.ldVxK 5)

/-! ### The step -/

/-- A running core whose bytes at pc decode to i executes i and ticks unless the execution raised a fault; a store to pc's
bytes or a move of pc is the instruction's own (30_encoding.md R80, R83, R85, R86). -/
def Obligations.StepRunsDecodedInstruction : Prop :=
  ∀ (s t : State) (i : Instr), s.faultCode = .none → s.pc.toNat ≤ 0xFFE →
    decode (BitVec.ofNat 16 ((s.readByte s.pc.toNat).toNat * 256 + (s.readByte (s.pc.toNat + 1)).toNat)) = .ok i →
    exec i s = .next t →
    step s = .next (if t.faultCode = .none then t.tick else t)

/-- Fetch forms the word from the bytes at pc and pc + 1, big-endian, for an even and for an odd pc (30_encoding.md R83,
20_memory.md R69, R70). -/
def Obligations.FetchIsBigEndian : Prop :=
  ∀ s : State,
    s.fetchWord.toNat = (s.readByte s.pc.toNat).toNat * 256 + (s.readByte (s.pc.toNat + 1)).toNat ∧
    hiByte s.fetchWord = s.readByte s.pc.toNat ∧ loByte s.fetchWord = s.readByte (s.pc.toNat + 1)

/-- A halted core does nothing on step, returns its code, and only reset brings it back (30_encoding.md R81). -/
def Obligations.HaltedCoreStaysHalted : Prop :=
  ∀ s : State, s.faultCode ≠ .none →
    step s = .next s ∧ s.stepResult = s.faultCode.code ∧ s.faultCode.code ≠ 0 ∧
    (∀ op t, op ≠ HostOp.reset → s.hostMove op = .next t → t.faultCode = s.faultCode) ∧
    ∃ t, s.hostMove .reset = .next t ∧ t.faultCode = .none

/-- A running core with pc > 0xFFE takes FETCH_BOUNDS with FAULT_INFO = pc, and this is fetch's only check: at any other pc,
odd ones too, the step goes on to decode the word (30_encoding.md R82). -/
def Obligations.FetchBoundsFault : Prop :=
  ∀ s : State, s.faultCode = .none →
    (s.pc.toNat > 0xFFE → step s = .next (Faulted s .fetchBounds s.pc)) ∧
    (s.pc.toNat ≤ 0xFFE → ∀ i, decode s.fetchWord = .ok i → step s = endOutcome (exec i s))

/-- A running core that fetches a word outside the opcode table takes ILLEGAL_OPCODE with the word, and nothing else changes;
the zero word of unwritten memory is one (30_encoding.md R96, R97). -/
def Obligations.IllegalOpcodeFault : Prop :=
  (∀ s : State, s.faultCode = .none → s.pc.toNat ≤ 0xFFE → WellFormedWord s.fetchWord = false →
    step s = .next (Faulted s .illegalOpcode s.fetchWord)) ∧
  WellFormedWord 0x0000 = false

/-- Faults are checked before any state is written: a step that raises writes only the fault status (00_scope.md R12), and
leaves pc, memory, registers, timers and the display as they were (60_exceptions.md R221). -/
def Obligations.FaultEntryIsPrecise : Prop :=
  ∀ s t : State, s.faultCode = .none → step s = .next t → t.faultCode ≠ .none →
    t = Faulted s t.faultCode t.faultInfo

/-- The fault table of 60_exceptions.md R220: a running core's step takes exactly the fault that the table gives it, with that
FAULT_INFO and FAULT_PC = pc, and no fault where the table gives none; the codes are the table's; a load, refused or not,
touches no fault status. -/
def Obligations.StepFaultsExactlyAsListed : Prop :=
  (∀ s : State, s.faultCode = .none → ∃ t, step s = .next t ∧
    (∀ f info, FaultCause s f info → t = Faulted s f info) ∧
    ((¬ ∃ f info, FaultCause s f info) → t.faultCode = .none)) ∧
  [FaultCode.none, .stackOverflow, .stackUnderflow, .illegalOpcode, .fetchBounds, .dataBounds, .reservedWrite,
    .keyIndex].map FaultCode.code = [0, 1, 2, 3, 4, 5, 6, 7] ∧
  ∀ (s : State) (bytes : List Byte), (s.load bytes).2.readFault = s.readFault

/-- The tick at the end of a step that does not fault: each timer down by one, stopping at 0 (60_exceptions.md R228). -/
def Obligations.TickEndsEveryStep : Prop :=
  ∀ (s u : State) (i : Instr), Fetches s i → exec i s = .next u → u.faultCode = .none →
    ∃ t, step s = .next t ∧ t = { u with dt := t.dt, st := t.st } ∧
      t.dt.toNat = u.dt.toNat - 1 ∧ t.st.toNat = u.st.toNat - 1

/-- Whatever instruction runs, a step that does not fault takes one from each timer that the instruction does not itself
write, a waiting FX0A included (30_encoding.md R86, 10_state.md R29, R30). -/
def Obligations.TimersTickWhateverRuns : Prop :=
  ∀ (s t : State) (i : Instr), Fetches s i → step s = .next t → t.faultCode = .none →
    ((∀ x, i ≠ .ldDtVx x) → t.dt.toNat = s.dt.toNat - 1) ∧
    ((∀ x, i ≠ .ldStVx x) → t.st.toNat = s.st.toNat - 1)

/-! ### Memory -/

/-- Memory follows the order of the writes to each address and nothing else: a read returns the most recent write to its
address, and a write leaves every other address as it was (20_memory.md R72). As data, on memory in canonical form (the
model's choice, notes/assumptions/3.md), a second write to an address replaces the first, writes to two addresses commute,
and writing back what an address holds changes nothing. -/
def Obligations.WritesOrderedOnlyByAddress : Prop :=
  ∀ (s : State) (a b : Nat) (u w : Byte),
    (s.writeByte a u).readByte b = (if b = a then u else s.readByte b) ∧
    (s.mem.wf = true → a < 0x1000 → b < 0x1000 →
      (s.writeByte a u).writeByte a w = s.writeByte a w ∧
      (a ≠ b → (s.writeByte a u).writeByte b w = (s.writeByte b w).writeByte a u) ∧
      s.writeByte a (s.readByte a) = s)

/-- The whole-range checks of the multi-byte instructions find a fault exactly when MemRead or MemWrite of some byte of the
range would raise one (20_memory.md R66, R67, R71), and then the first such byte's fault: that the bytes are checked in
address order, in place of the rules' two comparisons, is the model's reading (notes/assumptions/10.md). -/
def Obligations.RangeCheckIsBytewise : Prop :=
  ∀ (s : State) (n : Nat),
    (s.loadRangeFault n = none ↔ ∀ k, k < n → readFault (s.i.toNat + k) = none) ∧
    (s.storeRangeFault n = none ↔ ∀ k, k < n → writeFault (s.i.toNat + k) = none) ∧
    (∀ f, s.storeRangeFault n = some f →
      ∃ k, k < n ∧ writeFault (s.i.toNat + k) = some f ∧ ∀ j, j < k → writeFault (s.i.toNat + j) = none)

/-- A store is seen by the very next fetch, with nothing in between: after an FX55 or FX33 whose range may be stored, the word
fetched at pc + 2 is made of the bytes stored there, and of the bytes of before where the range does not reach, and the next
step executes what that word decodes to (20_memory.md R74, 70_reset_and_hazards.md R260). -/
def Obligations.StoreSeenByNextFetch : Prop :=
  ∀ (s : State) (x : Reg), 0x200 ≤ s.i.toNat →
    (Fetches s (.ldMemVx x) → s.i.toNat + x.toNat ≤ 0xFFF →
      let after : Nat → Byte := fun a =>
        if s.i.toNat ≤ a ∧ a ≤ s.i.toNat + x.toNat then s.reg (BitVec.ofNat 4 (a - s.i.toNat)) else s.readByte a
      ∃ t, step s = .next t ∧ t.pc = s.pc + 2 ∧
        t.fetchWord = wordOfBytes (after (s.pc.toNat + 2)) (after (s.pc.toNat + 3)) ∧
        ∀ i, t.pc.toNat ≤ 0xFFE → decode t.fetchWord = .ok i → step t = endOutcome (exec i t)) ∧
    (Fetches s (.ldBVx x) → s.i.toNat + 2 ≤ 0xFFF →
      let after : Nat → Byte := fun a =>
        if a = s.i.toNat then BitVec.ofNat 8 ((s.reg x).toNat / 100)
        else if a = s.i.toNat + 1 then BitVec.ofNat 8 ((s.reg x).toNat / 10 % 10)
        else if a = s.i.toNat + 2 then BitVec.ofNat 8 ((s.reg x).toNat % 10)
        else s.readByte a
      ∃ t, step s = .next t ∧ t.pc = s.pc + 2 ∧
        t.fetchWord = wordOfBytes (after (s.pc.toNat + 2)) (after (s.pc.toNat + 3)) ∧
        ∀ i, t.pc.toNat ≤ 0xFFE → decode t.fetchWord = .ok i → step t = endOutcome (exec i t))

/-- Memory keeps its canonical form through every step. The form is the model's choice (notes/assumptions/3.md); that its
addresses stay in 0x000 to 0xFFF is 20_memory.md R60 and R67. -/
def Obligations.StepKeepsMemoryCanonical : Prop :=
  ∀ s t : State, s.mem.wf = true → step s = .next t → t.mem.wf = true

/-- No instruction changes the reserved area with the font; load does not reach it, and only reset rewrites it, to the same
bytes (20_memory.md R65, which the spec derives from R67 and 70_reset_and_hazards.md R252). -/
def Obligations.ReservedAreaImmutable : Prop :=
  (∀ s t : State, step s = .next t → ∀ a, a < 0x200 → t.readByte a = s.readByte a) ∧
  (∀ (op : HostOp) (s t : State), op ≠ .reset → s.hostMove op = .next t →
    ∀ a, a < 0x200 → t.readByte a = s.readByte a) ∧
  (∀ s t : State, s.hostMove .reset = .next t → ∀ k, k < 80 → t.readByte (0x050 + k) = fontTable.getD k 0)

/-! ### Invariants -/

/-- pc stays at most 0x10FE, and every stack entry is a fetchable address (10_state.md R26, R27). -/
def Obligations.StepKeepsPcBounded : Prop :=
  ∀ s t : State, PcBounded s → step s = .next t → PcBounded t

/-- The fault status is zero while the core runs, and a halted core's FAULT_PC is its pc (10_state.md R34, 60_exceptions.md
R221). -/
def Obligations.StepKeepsFaultStatusSound : Prop :=
  ∀ s t : State, FaultStatusSound s → step s = .next t → FaultStatusSound t

/-- The invariants hold right after reset (10_state.md R49). The canonical form of memory, the first of them, is the model's
choice (notes/assumptions/3.md). -/
def Obligations.ResetMeetsInvariants : Prop :=
  State.reset.mem.wf = true ∧ ReservedIntact State.reset ∧ PcBounded State.reset ∧ FaultStatusSound State.reset

/-- Every state that the host can bring the core to, by any sequence of resets, loads, steps, key writes and redraw reads,
has memory in canonical form, the reserved area as after reset, pc at most 0x10FE, and a sound fault status
(10_state.md R26, R34, R40; 20_memory.md R65). The canonical form is the model's choice (notes/assumptions/3.md). -/
def Obligations.ReachableStatesAreSound : Prop :=
  ∀ s : State, Reachable s → s.mem.wf = true ∧ ReservedIntact s ∧ PcBounded s ∧ FaultStatusSound s

/-! ### Whole-machine rules -/

/-- Only 00E0 and DXYN change a pixel or set the redraw flag, and each sets it and advances pc by 2 whenever it executes
(40_display.md R110, 10_state.md R33). -/
def Obligations.OnlyDisplayInstructionsDraw : Prop :=
  (∀ (i : Instr) (s t : State), exec i s = .next t → (∃ x y, t.pixel x y ≠ s.pixel x y) ∨ t.dirty ≠ s.dirty →
    i = .cls ∨ ∃ x y n, i = .drw x y n) ∧
  (∀ (i : Instr) (s t : State), s.faultCode = .none → exec i s = .next t → t.faultCode = .none →
    (i = .cls ∨ ∃ x y n, i = .drw x y n) → t.dirty = true ∧ t.pc = s.pc + 2)

/-- Only FX33 and FX55 write memory by instruction (20_memory.md R67). -/
def Obligations.OnlyStoresWriteMemory : Prop :=
  ∀ (i : Instr) (s t : State), exec i s = .next t → (∃ a, t.readByte a ≠ s.readByte a) →
    ∃ x, i = .ldBVx x ∨ i = .ldMemVx x

/-- Only 2NNN writes a stack entry, and only 2NNN and 00EE move sp, by one (10_state.md R27, R28). -/
def Obligations.StackChangesOnlyByCallAndReturn : Prop :=
  ∀ (i : Instr) (s t : State), exec i s = .next t →
    (t.stack ≠ s.stack → ∃ nnn, i = .call nnn) ∧
    (t.sp ≠ s.sp → (∃ nnn, i = .call nnn ∧ t.sp.val = s.sp.val + 1) ∨ (i = .ret ∧ t.sp.val + 1 = s.sp.val))

/-- The writers of the special registers: only ANNN, FX1E and FX29 change I, only FX15 changes DT and only FX18 changes ST
before the tick (10_state.md R24, R29, R30, R37; 43_index_memory.md R180). -/
def Obligations.SpecialRegisterWriters : Prop :=
  ∀ (i : Instr) (s t : State), exec i s = .next t →
    (t.i ≠ s.i → (∃ nnn, i = .ldI nnn) ∨ ∃ x, i = .addIVx x ∨ i = .ldFVx x) ∧
    (t.dt ≠ s.dt → ∃ x, i = .ldDtVx x) ∧ (t.st ≠ s.st → ∃ x, i = .ldStVx x)

/-- No instruction and no step writes a key state, and set_key writes the named one alone (10_state.md R32, R41). -/
def Obligations.KeysWrittenOnlyByHost : Prop :=
  (∀ s t : State, step s = .next t → t.key = s.key) ∧
  (∀ (s : State) (k j : Reg) (b : Bool),
    (s.setKey k b).keyDown j = (if j = k then b else s.keyDown j) ∧
    s.setKey k b = { s with key := (s.setKey k b).key })

/-- The general registers an instruction writes and reads are those of 10_state.md R23: a register outside the "writes V"
column is unchanged, and the value of a register outside the "reads V" column reaches nothing but that register. -/
def Obligations.RegisterUseFollowsTable : Prop :=
  (∀ (i : Instr) (s t : State) (r : Reg), exec i s = .next t → i.writesReg r = false → t.reg r = s.reg r) ∧
  (∀ (i : Instr) (s : State) (r : Reg) (u : Byte), i.readsReg r = false →
    ∃ t t', exec i s = .next t ∧ exec i (s.setReg r u) = .next t' ∧
      t' = { t with v := t'.v } ∧ ∀ q, q ≠ r → t'.reg q = t.reg q)

/-- How pc moves: an executed instruction that raises no fault sets pc to the one value, or one of the two, that
10_state.md R26 and 30_encoding.md R85 give it. -/
def Obligations.ProgramCounterMoves : Prop :=
  ∀ (i : Instr) (s t : State), s.faultCode = .none → exec i s = .next t → t.faultCode = .none →
    match i with
    | .jp nnn | .call nnn => t.pc.toNat = nnn.toNat
    | .jpV0 nnn => t.pc.toNat = nnn.toNat + (s.reg 0).toNat
    | .ret => ∃ h : s.sp.val - 1 < 16, t.pc = s.stack[s.sp.val - 1] + 2
    | .seImm _ _ | .sneImm _ _ | .seReg _ _ | .sneReg _ _ | .skp _ | .sknp _ => t.pc = s.pc + 2 ∨ t.pc = s.pc + 4
    | .ldVxK _ => t.pc = s.pc + 2 ∨ t = s
    | _ => t.pc = s.pc + 2

/-! ### Display instructions -/

/-- 00E0 CLS (40_display.md R111). -/
def Obligations.ClearScreenResult : Prop :=
  encode .cls = 0x00E0 ∧
  ∀ s : State, ∃ t, exec .cls s = .next t ∧
    (∀ x y, t.pixel x y = false) ∧ t.dirty = true ∧ t.pc = s.pc + 2 ∧
    t = { s with fb := t.fb, dirty := t.dirty, pc := t.pc } ∧ SameBytes s t

/-- DXYN DRW: the origin wraps, the body is clipped, every pixel is exclusive-ored with the sprite, VF is the collision, and
a sprite that does not lie wholly in memory faults before anything changes (40_display.md R112 to R115). That bit 7 is the
leftmost column is what R114 takes from general knowledge (92_eei_decisions.md D8). -/
def Obligations.DrawSpriteResult : Prop :=
  ∀ (x y : Reg) (n : Nibble) (s : State),
    encode (.drw x y n) = 0xD000 ||| x.setWidth 16 <<< 8 ||| y.setWidth 16 <<< 4 ||| n.setWidth 16 ∧
    (n.toNat > 0 ∧ s.i.toNat + (n.toNat - 1) > 0xFFF →
      exec (.drw x y n) s = .next (Faulted s .dataBounds s.i)) ∧
    (n.toNat = 0 ∨ s.i.toNat + (n.toNat - 1) ≤ 0xFFF → ∃ t, exec (.drw x y n) s = .next t ∧
      (∀ px py, px < 64 → py < 32 → t.pixel px py =
        (s.pixel px py ^^ spriteLit s ((s.reg x).toNat % 64) ((s.reg y).toNat % 32) n.toNat px py)) ∧
      ((∃ px py, px < 64 ∧ py < 32 ∧ s.pixel px py = true ∧
          spriteLit s ((s.reg x).toNat % 64) ((s.reg y).toNat % 32) n.toNat px py = true) → t.reg 0xF = 1) ∧
      ((¬ ∃ px py, px < 64 ∧ py < 32 ∧ s.pixel px py = true ∧
          spriteLit s ((s.reg x).toNat % 64) ((s.reg y).toNat % 32) n.toNat px py = true) → t.reg 0xF = 0) ∧
      OtherRegsKept s t 0xF ∧ t.dirty = true ∧ t.pc = s.pc + 2 ∧
      t = { s with v := t.v, fb := t.fb, dirty := t.dirty, pc := t.pc } ∧ SameBytes s t)

/-! ### Control flow -/

/-- 00EE RET (41_control_flow.md R131). -/
def Obligations.ReturnResult : Prop :=
  encode .ret = 0x00EE ∧
  ∀ s : State,
    (s.sp.val = 0 → exec .ret s = .next (Faulted s .stackUnderflow 0)) ∧
    (∀ h : 0 < s.sp.val, ∃ t, exec .ret s = .next t ∧ t.sp.val = s.sp.val - 1 ∧
      t.pc.toNat = ((s.stack[s.sp.val - 1]).toNat + 2) % 65536 ∧
      t = { s with sp := t.sp, pc := t.pc } ∧ SameBytes s t)

/-- 1NNN JP nnn: a jump to 0xFFF faults at the next fetch, no other target does so (41_control_flow.md R132). -/
def Obligations.JumpResult : Prop :=
  ∀ (nnn : Addr) (s : State),
    encode (.jp nnn) = 0x1000 ||| nnn.setWidth 16 ∧
    ∃ t, exec (.jp nnn) s = .next t ∧ t.pc.toNat = nnn.toNat ∧ OnlyPcChanges s t ∧
      (s.faultCode = .none →
        (nnn = 0xFFF → step t = .next (Faulted t .fetchBounds 0xFFF)) ∧
        (nnn ≠ 0xFFF → ∀ info, t.fetchDecode ≠ .error (.fetchBounds, info)))

/-- 2NNN CALL nnn (41_control_flow.md R133). -/
def Obligations.CallResult : Prop :=
  ∀ (nnn : Addr) (s : State),
    encode (.call nnn) = 0x2000 ||| nnn.setWidth 16 ∧
    (s.sp.val = 16 → exec (.call nnn) s = .next (Faulted s .stackOverflow (nnn.setWidth 16))) ∧
    (∀ h : s.sp.val < 16, ∃ t, exec (.call nnn) s = .next t ∧
      t.stack = s.stack.set s.sp.val s.pc ∧ t.sp.val = s.sp.val + 1 ∧ t.pc.toNat = nnn.toNat ∧
      t = { s with stack := t.stack, sp := t.sp, pc := t.pc } ∧ SameBytes s t)

/-- A call followed by a return resumes at the instruction after the call, with the stack as deep as before and its other
entries untouched (41_control_flow.md R131, R133; 95_test_vectors.md S6). -/
def Obligations.CallThenReturnResumes : Prop :=
  ∀ (nnn : Addr) (s : State), s.sp.val < 16 →
    ∃ t u, exec (.call nnn) s = .next t ∧ exec .ret t = .next u ∧ u.pc = s.pc + 2 ∧ u.sp = s.sp ∧
      u = { s with stack := u.stack, pc := u.pc } ∧
      ∀ k : Reg, k.toNat ≠ s.sp.val → u.stack[k.toNat] = s.stack[k.toNat]

/-- 3XNN, 4XNN, 5XY0, 9XY0: the skips on registers (41_control_flow.md R134 to R137). -/
def Obligations.RegisterSkipResults : Prop :=
  ∀ (x y : Reg) (nn : Byte) (s : State),
    (encode (.seImm x nn) = 0x3000 ||| x.setWidth 16 <<< 8 ||| nn.setWidth 16 ∧
      ∃ t, exec (.seImm x nn) s = .next t ∧ OnlyPcChanges s t ∧
        t.pc = if s.reg x = nn then s.pc + 4 else s.pc + 2) ∧
    (encode (.sneImm x nn) = 0x4000 ||| x.setWidth 16 <<< 8 ||| nn.setWidth 16 ∧
      ∃ t, exec (.sneImm x nn) s = .next t ∧ OnlyPcChanges s t ∧
        t.pc = if s.reg x ≠ nn then s.pc + 4 else s.pc + 2) ∧
    (encode (.seReg x y) = 0x5000 ||| x.setWidth 16 <<< 8 ||| y.setWidth 16 <<< 4 ∧
      ∃ t, exec (.seReg x y) s = .next t ∧ OnlyPcChanges s t ∧
        t.pc = if s.reg x = s.reg y then s.pc + 4 else s.pc + 2) ∧
    (encode (.sneReg x y) = 0x9000 ||| x.setWidth 16 <<< 8 ||| y.setWidth 16 <<< 4 ∧
      ∃ t, exec (.sneReg x y) s = .next t ∧ OnlyPcChanges s t ∧
        t.pc = if s.reg x ≠ s.reg y then s.pc + 4 else s.pc + 2)

/-- BNNN JP V0, nnn: the sum is not reduced mod 4096, and one above 0xFFE faults at the next step (41_control_flow.md
R138). -/
def Obligations.JumpPlusV0Result : Prop :=
  ∀ (nnn : Addr) (s : State),
    encode (.jpV0 nnn) = 0xB000 ||| nnn.setWidth 16 ∧
    ∃ t, exec (.jpV0 nnn) s = .next t ∧ t.pc.toNat = nnn.toNat + (s.reg 0).toNat ∧ OnlyPcChanges s t ∧
      (s.faultCode = .none → nnn.toNat + (s.reg 0).toNat > 0xFFE →
        step t = .next (Faulted t .fetchBounds t.pc))

/-! ### Registers and arithmetic -/

/-- 6XNN, 7XNN, 8XY0: load, add without flag, copy (42_alu.md R151, R152, R153). -/
def Obligations.LoadAddCopyResults : Prop :=
  ∀ (x y : Reg) (nn : Byte) (s : State),
    (encode (.ldImm x nn) = 0x6000 ||| x.setWidth 16 <<< 8 ||| nn.setWidth 16 ∧
      ∃ t, exec (.ldImm x nn) s = .next t ∧ t.reg x = nn ∧ OtherRegsKept s t x ∧ t.pc = s.pc + 2 ∧
        OnlyRegsAndPcChange s t) ∧
    (encode (.addImm x nn) = 0x7000 ||| x.setWidth 16 <<< 8 ||| nn.setWidth 16 ∧
      ∃ t, exec (.addImm x nn) s = .next t ∧ (t.reg x).toNat = ((s.reg x).toNat + nn.toNat) % 256 ∧
        OtherRegsKept s t x ∧ t.pc = s.pc + 2 ∧ OnlyRegsAndPcChange s t) ∧
    (encode (.ldReg x y) = 0x8000 ||| x.setWidth 16 <<< 8 ||| y.setWidth 16 <<< 4 ∧
      ∃ t, exec (.ldReg x y) s = .next t ∧ t.reg x = s.reg y ∧ OtherRegsKept s t x ∧ t.pc = s.pc + 2 ∧
        OnlyRegsAndPcChange s t)

/-- 8XY1, 8XY2, 8XY3: the logical operations, which do not write VF but as their destination (42_alu.md R154 to R157). -/
def Obligations.LogicalResults : Prop :=
  ∀ (x y : Reg) (s : State),
    (encode (.orReg x y) = 0x8001 ||| x.setWidth 16 <<< 8 ||| y.setWidth 16 <<< 4 ∧
      ∃ t, exec (.orReg x y) s = .next t ∧ t.reg x = s.reg x ||| s.reg y ∧ OtherRegsKept s t x ∧
        t.pc = s.pc + 2 ∧ OnlyRegsAndPcChange s t) ∧
    (encode (.andReg x y) = 0x8002 ||| x.setWidth 16 <<< 8 ||| y.setWidth 16 <<< 4 ∧
      ∃ t, exec (.andReg x y) s = .next t ∧ t.reg x = s.reg x &&& s.reg y ∧ OtherRegsKept s t x ∧
        t.pc = s.pc + 2 ∧ OnlyRegsAndPcChange s t) ∧
    (encode (.xorReg x y) = 0x8003 ||| x.setWidth 16 <<< 8 ||| y.setWidth 16 <<< 4 ∧
      ∃ t, exec (.xorReg x y) s = .next t ∧ t.reg x = s.reg x ^^^ s.reg y ∧ OtherRegsKept s t x ∧
        t.pc = s.pc + 2 ∧ OnlyRegsAndPcChange s t)

/-- 8XY4: the sum of the old values modulo 256 in VX, then the carry in VF, which wins when X = 0xF (42_alu.md R158). -/
def Obligations.AddWithCarryResult : Prop :=
  ∀ (x y : Reg) (s : State),
    encode (.addReg x y) = 0x8004 ||| x.setWidth 16 <<< 8 ||| y.setWidth 16 <<< 4 ∧
    ∃ t, exec (.addReg x y) s = .next t ∧
      (t.reg 0xF).toNat = (if (s.reg x).toNat + (s.reg y).toNat > 255 then 1 else 0) ∧
      (x ≠ 0xF → (t.reg x).toNat = ((s.reg x).toNat + (s.reg y).toNat) % 256) ∧
      (∀ r, r ≠ x → r ≠ 0xF → t.reg r = s.reg r) ∧ t.pc = s.pc + 2 ∧ OnlyRegsAndPcChange s t

/-- 8XY5 and 8XY7: VF is the strict comparison of the old values, written first; the difference is then taken on the
registers as they are, modulo 256, so that `old` holds the flag at 0xF (42_alu.md R159, R161). -/
def Obligations.SubtractResults : Prop :=
  ∀ (x y : Reg) (s : State),
    (encode (.sub x y) = 0x8005 ||| x.setWidth 16 <<< 8 ||| y.setWidth 16 <<< 4 ∧
      let f : Byte := if (s.reg x).toNat > (s.reg y).toNat then 1 else 0
      let old : Reg → Byte := fun r => if r = 0xF then f else s.reg r
      ∃ t, exec (.sub x y) s = .next t ∧
        (t.reg x).toNat = ((old x).toNat + 256 - (old y).toNat) % 256 ∧ (∀ r, r ≠ x → t.reg r = old r) ∧
        t.pc = s.pc + 2 ∧ OnlyRegsAndPcChange s t) ∧
    (encode (.subn x y) = 0x8007 ||| x.setWidth 16 <<< 8 ||| y.setWidth 16 <<< 4 ∧
      let f : Byte := if (s.reg y).toNat > (s.reg x).toNat then 1 else 0
      let old : Reg → Byte := fun r => if r = 0xF then f else s.reg r
      ∃ t, exec (.subn x y) s = .next t ∧
        (t.reg x).toNat = ((old y).toNat + 256 - (old x).toNat) % 256 ∧ (∀ r, r ≠ x → t.reg r = old r) ∧
        t.pc = s.pc + 2 ∧ OnlyRegsAndPcChange s t)

/-- 8XY6 and 8XYE: VF is the bit shifted out, written first; then VX is shifted by one, whatever Y is (42_alu.md R160,
R162). -/
def Obligations.ShiftResults : Prop :=
  ∀ (x y : Reg) (s : State),
    (encode (.shr x y) = 0x8006 ||| x.setWidth 16 <<< 8 ||| y.setWidth 16 <<< 4 ∧
      ∃ t, exec (.shr x y) s = .next t ∧
        (x ≠ 0xF → (t.reg 0xF).toNat = (s.reg x).toNat % 2 ∧ (t.reg x).toNat = (s.reg x).toNat / 2) ∧
        (x = 0xF → t.reg 0xF = 0) ∧
        (∀ r, r ≠ x → r ≠ 0xF → t.reg r = s.reg r) ∧ t.pc = s.pc + 2 ∧ OnlyRegsAndPcChange s t) ∧
    (encode (.shl x y) = 0x800E ||| x.setWidth 16 <<< 8 ||| y.setWidth 16 <<< 4 ∧
      ∃ t, exec (.shl x y) s = .next t ∧
        (x ≠ 0xF → (t.reg 0xF).toNat = (s.reg x).toNat / 128 ∧ (t.reg x).toNat = (s.reg x).toNat * 2 % 256) ∧
        (x = 0xF → t.reg 0xF = if (s.reg 0xF).toNat ≥ 128 then 2 else 0) ∧
        (∀ r, r ≠ x → r ≠ 0xF → t.reg r = s.reg r) ∧ t.pc = s.pc + 2 ∧ OnlyRegsAndPcChange s t)

/-- The results when VF is an operand: the table of 42_alu.md R165, row by row (X = 0xF; Y = 0xF; X = Y = 0xF). The spec marks
the table as its own inference, from the statement order of R158 to R162. -/
def Obligations.FlagOperandResults : Prop :=
  ∀ (x y : Reg) (s : State), x ≠ 0xF → y ≠ 0xF →
    (∃ t, exec (.addReg 0xF y) s = .next t ∧
      (t.reg 0xF).toNat = if (s.reg 0xF).toNat + (s.reg y).toNat > 255 then 1 else 0) ∧
    (∃ t, exec (.addReg x 0xF) s = .next t ∧
      (t.reg x).toNat = ((s.reg x).toNat + (s.reg 0xF).toNat) % 256 ∧
      (t.reg 0xF).toNat = if (s.reg x).toNat + (s.reg 0xF).toNat > 255 then 1 else 0) ∧
    (∃ t, exec (.addReg 0xF 0xF) s = .next t ∧
      (t.reg 0xF).toNat = if 2 * (s.reg 0xF).toNat > 255 then 1 else 0) ∧
    (∃ t, exec (.sub 0xF y) s = .next t ∧
      (t.reg 0xF).toNat =
        ((if (s.reg 0xF).toNat > (s.reg y).toNat then 1 else 0) + 256 - (s.reg y).toNat) % 256) ∧
    (∃ t, exec (.sub x 0xF) s = .next t ∧
      (t.reg 0xF).toNat = (if (s.reg x).toNat > (s.reg 0xF).toNat then 1 else 0) ∧
      (t.reg x).toNat =
        ((s.reg x).toNat + 256 - (if (s.reg x).toNat > (s.reg 0xF).toNat then 1 else 0)) % 256) ∧
    (∃ t, exec (.sub 0xF 0xF) s = .next t ∧ t.reg 0xF = 0) ∧
    (∃ t, exec (.shr 0xF y) s = .next t ∧ t.reg 0xF = 0) ∧
    (∃ t, exec (.shr x 0xF) s = .next t ∧
      (t.reg 0xF).toNat = (s.reg x).toNat % 2 ∧ (t.reg x).toNat = (s.reg x).toNat / 2) ∧
    (∃ t, exec (.shr 0xF 0xF) s = .next t ∧ t.reg 0xF = 0) ∧
    (∃ t, exec (.subn 0xF y) s = .next t ∧
      (t.reg 0xF).toNat =
        ((s.reg y).toNat + 256 - (if (s.reg y).toNat > (s.reg 0xF).toNat then 1 else 0)) % 256) ∧
    (∃ t, exec (.subn x 0xF) s = .next t ∧
      (t.reg 0xF).toNat = (if (s.reg 0xF).toNat > (s.reg x).toNat then 1 else 0) ∧
      (t.reg x).toNat =
        ((if (s.reg 0xF).toNat > (s.reg x).toNat then 1 else 0) + 256 - (s.reg x).toNat) % 256) ∧
    (∃ t, exec (.subn 0xF 0xF) s = .next t ∧ t.reg 0xF = 0) ∧
    (∃ t, exec (.shl 0xF y) s = .next t ∧ (t.reg 0xF).toNat = 2 * ((s.reg 0xF).toNat / 128)) ∧
    (∃ t, exec (.shl x 0xF) s = .next t ∧
      (t.reg 0xF).toNat = (s.reg x).toNat / 128 ∧ (t.reg x).toNat = (s.reg x).toNat * 2 % 256) ∧
    (∃ t, exec (.shl 0xF 0xF) s = .next t ∧ (t.reg 0xF).toNat = 2 * ((s.reg 0xF).toNat / 128))

/-- CXNN RND: VX is the step's random byte masked by NN, whatever that byte is: it is the free value `Config.rnd`
(42_alu.md R163, 10_state.md R46). The draw counter may advance: it is the model's own (notes/assumptions/1.md). -/
def Obligations.RandomMaskResult : Prop :=
  ∀ (x : Reg) (nn : Byte) (s : State),
    encode (.rnd x nn) = 0xC000 ||| x.setWidth 16 <<< 8 ||| nn.setWidth 16 ∧
    ∃ t, exec (.rnd x nn) s = .next t ∧ t.reg x = Config.rnd s.rndCount &&& nn ∧
      (nn = 0 → t.reg x = 0) ∧ (nn = 0xFF → t.reg x = Config.rnd s.rndCount) ∧
      OtherRegsKept s t x ∧ t.pc = s.pc + 2 ∧
      t = { s with v := t.v, pc := t.pc, rndCount := t.rndCount } ∧ SameBytes s t

/-! ### Index register and memory instructions -/

/-- ANNN, FX1E, FX29: the writes of I; no flag, no mask to 12 bits, VX not masked (43_index_memory.md R181, R182, R183). -/
def Obligations.IndexResults : Prop :=
  ∀ (nnn : Addr) (x : Reg) (s : State),
    (encode (.ldI nnn) = 0xA000 ||| nnn.setWidth 16 ∧
      ∃ t, exec (.ldI nnn) s = .next t ∧ t.i.toNat = nnn.toNat ∧ t.pc = s.pc + 2 ∧
        t = { s with i := t.i, pc := t.pc } ∧ SameBytes s t) ∧
    (encode (.addIVx x) = 0xF01E ||| x.setWidth 16 <<< 8 ∧
      ∃ t, exec (.addIVx x) s = .next t ∧ t.i.toNat = (s.i.toNat + (s.reg x).toNat) % 65536 ∧ t.pc = s.pc + 2 ∧
        t = { s with i := t.i, pc := t.pc } ∧ SameBytes s t ∧
        (t.i.toNat > 0xFFF → ∀ y z : Reg, ∀ n : Nibble,
          exec (.ldVxMem y) t = .next (Faulted t .dataBounds t.i) ∧
          exec (.ldMemVx y) t = .next (Faulted t .dataBounds t.i) ∧
          exec (.ldBVx y) t = .next (Faulted t .dataBounds t.i) ∧
          (n ≠ 0 → exec (.drw y z n) t = .next (Faulted t .dataBounds t.i)))) ∧
    (encode (.ldFVx x) = 0xF029 ||| x.setWidth 16 <<< 8 ∧
      ∃ t, exec (.ldFVx x) s = .next t ∧ t.i.toNat = 0x050 + 5 * (s.reg x).toNat ∧ t.pc = s.pc + 2 ∧
        t = { s with i := t.i, pc := t.pc } ∧ SameBytes s t)

/-- FX33 LD B, Vx: the decimal digits at I, I + 1, I + 2, or the fault of the range (43_index_memory.md R184). -/
def Obligations.StoreDecimalResult : Prop :=
  ∀ (x : Reg) (s : State),
    encode (.ldBVx x) = 0xF033 ||| x.setWidth 16 <<< 8 ∧
    (s.i.toNat + 2 > 0xFFF → exec (.ldBVx x) s = .next (Faulted s .dataBounds s.i)) ∧
    (s.i.toNat < 0x200 → exec (.ldBVx x) s = .next (Faulted s .reservedWrite s.i)) ∧
    (0x200 ≤ s.i.toNat → s.i.toNat + 2 ≤ 0xFFF → ∃ t, exec (.ldBVx x) s = .next t ∧
      (t.readByte s.i.toNat).toNat = (s.reg x).toNat / 100 ∧
      (t.readByte (s.i.toNat + 1)).toNat = (s.reg x).toNat / 10 % 10 ∧
      (t.readByte (s.i.toNat + 2)).toNat = (s.reg x).toNat % 10 ∧
      SameBytesOutside s t s.i.toNat 3 ∧ t.pc = s.pc + 2 ∧ t = { s with mem := t.mem, pc := t.pc })

/-- FX55 LD [I], Vx: V0..VX at I, I + 1, ..., I unchanged, or the fault of the range (43_index_memory.md R185). -/
def Obligations.StoreRegistersResult : Prop :=
  ∀ (x : Reg) (s : State),
    encode (.ldMemVx x) = 0xF055 ||| x.setWidth 16 <<< 8 ∧
    (s.i.toNat + x.toNat > 0xFFF → exec (.ldMemVx x) s = .next (Faulted s .dataBounds s.i)) ∧
    (s.i.toNat < 0x200 → exec (.ldMemVx x) s = .next (Faulted s .reservedWrite s.i)) ∧
    (0x200 ≤ s.i.toNat → s.i.toNat + x.toNat ≤ 0xFFF → ∃ t, exec (.ldMemVx x) s = .next t ∧
      (∀ k : Reg, k.toNat ≤ x.toNat → t.readByte (s.i.toNat + k.toNat) = s.reg k) ∧
      SameBytesOutside s t s.i.toNat (x.toNat + 1) ∧ t.pc = s.pc + 2 ∧
      t = { s with mem := t.mem, pc := t.pc })

/-- FX65 LD Vx, [I]: V0..VX from I, I + 1, ..., I unchanged, or the fault of the range (43_index_memory.md R186). -/
def Obligations.LoadRegistersResult : Prop :=
  ∀ (x : Reg) (s : State),
    encode (.ldVxMem x) = 0xF065 ||| x.setWidth 16 <<< 8 ∧
    (s.i.toNat + x.toNat > 0xFFF → exec (.ldVxMem x) s = .next (Faulted s .dataBounds s.i)) ∧
    (s.i.toNat + x.toNat ≤ 0xFFF → ∃ t, exec (.ldVxMem x) s = .next t ∧
      (∀ r : Reg, t.reg r = if r.toNat ≤ x.toNat then s.readByte (s.i.toNat + r.toNat) else s.reg r) ∧
      t.pc = s.pc + 2 ∧ OnlyRegsAndPcChange s t)

/-! ### Keypad and timers -/

/-- EX9E and EXA1: the skips on a key, and KEY_INDEX for a value that is no key number (44_keypad_timers.md R201, R202). -/
def Obligations.KeySkipResults : Prop :=
  ∀ (x : Reg) (s : State),
    (encode (.skp x) = 0xE09E ||| x.setWidth 16 <<< 8 ∧
      ((s.reg x).toNat > 0xF → exec (.skp x) s = .next (Faulted s .keyIndex ((s.reg x).setWidth 16))) ∧
      (∀ k : Reg, k.toNat = (s.reg x).toNat → ∃ t, exec (.skp x) s = .next t ∧ OnlyPcChanges s t ∧
        t.pc = if s.keyDown k = true then s.pc + 4 else s.pc + 2)) ∧
    (encode (.sknp x) = 0xE0A1 ||| x.setWidth 16 <<< 8 ∧
      ((s.reg x).toNat > 0xF → exec (.sknp x) s = .next (Faulted s .keyIndex ((s.reg x).setWidth 16))) ∧
      (∀ k : Reg, k.toNat = (s.reg x).toNat → ∃ t, exec (.sknp x) s = .next t ∧ OnlyPcChanges s t ∧
        t.pc = if s.keyDown k = false then s.pc + 4 else s.pc + 2))

/-- FX0A: the lowest-numbered pressed key goes to VX; with no key pressed nothing changes and pc stays, so that the step
changes the timers alone (44_keypad_timers.md R204, R207). -/
def Obligations.KeyWaitResult : Prop :=
  ∀ (x : Reg) (s : State),
    encode (.ldVxK x) = 0xF00A ||| x.setWidth 16 <<< 8 ∧
    (∀ k : Reg, s.keyDown k = true → (∀ j : Reg, j.toNat < k.toNat → s.keyDown j = false) →
      ∃ t, exec (.ldVxK x) s = .next t ∧ (t.reg x).toNat = k.toNat ∧ OtherRegsKept s t x ∧ t.pc = s.pc + 2 ∧
        OnlyRegsAndPcChange s t) ∧
    ((∀ k : Reg, s.keyDown k = false) → exec (.ldVxK x) s = .next s ∧
      (Fetches s (.ldVxK x) → ∃ t, step s = .next t ∧ t = { s with dt := t.dt, st := t.st } ∧
        t.dt.toNat = s.dt.toNat - 1 ∧ t.st.toNat = s.st.toNat - 1))

/-- Waiting is read off the state: the word at pc is an FX0A and no key is pressed (10_state.md R39), and a waiting step leaves
the core waiting. That a halted core does not wait, even where its pc holds an FX0A, is the model's choice
(notes/assumptions/13.md): it is the running that `Fetches` asks for. -/
def Obligations.WaitingReadOffState : Prop :=
  ∀ s : State,
    (s.waiting = true ↔ (∃ x, Fetches s (.ldVxK x)) ∧ ∀ k : Reg, s.keyDown k = false) ∧
    (s.waiting = true → ∃ t, step s = .next t ∧ t.waiting = true)

/-- FX07, FX15, FX18: the transfers between VX and the timers; the tick of the same step comes after them, so FX07 reads DT
before it, and n > 0 written to a timer is n - 1 after the step (44_keypad_timers.md R203, R205, R206). -/
def Obligations.TimerTransferResults : Prop :=
  ∀ (x : Reg) (s : State),
    (encode (.ldVxDt x) = 0xF007 ||| x.setWidth 16 <<< 8 ∧
      (∃ t, exec (.ldVxDt x) s = .next t ∧ t.reg x = s.dt ∧ OtherRegsKept s t x ∧ t.pc = s.pc + 2 ∧
        OnlyRegsAndPcChange s t) ∧
      (Fetches s (.ldVxDt x) → ∃ t, step s = .next t ∧ t.reg x = s.dt ∧ t.dt.toNat = s.dt.toNat - 1)) ∧
    (encode (.ldDtVx x) = 0xF015 ||| x.setWidth 16 <<< 8 ∧
      (∃ t, exec (.ldDtVx x) s = .next t ∧ t.dt = s.reg x ∧ t.pc = s.pc + 2 ∧
        t = { s with dt := t.dt, pc := t.pc } ∧ SameBytes s t) ∧
      (Fetches s (.ldDtVx x) → ∃ t, step s = .next t ∧ t.dt.toNat = (s.reg x).toNat - 1)) ∧
    (encode (.ldStVx x) = 0xF018 ||| x.setWidth 16 <<< 8 ∧
      (∃ t, exec (.ldStVx x) s = .next t ∧ t.st = s.reg x ∧ t.pc = s.pc + 2 ∧
        t = { s with st := t.st, pc := t.pc } ∧ SameBytes s t) ∧
      (Fetches s (.ldStVx x) → ∃ t, step s = .next t ∧ t.st.toNat = (s.reg x).toNat - 1 ∧
        ((s.reg x).toNat = 1 → t.soundActive = false)))

/-- A program that writes n > 0 to DT sees n - 1 at the earliest FX07 after it, and writing 1 to ST gives no state with sound
active: 70_reset_and_hazards.md R255, which the spec derives from 44_keypad_timers.md R205, R206 and 60_exceptions.md R228. -/
def Obligations.TimerWriteThenRead : Prop :=
  ∀ (x y : Reg) (s : State),
    (Fetches s (.ldDtVx x) → ∃ t, step s = .next t ∧
      (∃ u, exec (.ldVxDt y) t = .next u ∧ (u.reg y).toNat = (s.reg x).toNat - 1) ∧
      (Fetches t (.ldVxDt y) → ∃ u, step t = .next u ∧ (u.reg y).toNat = (s.reg x).toNat - 1)) ∧
    (Fetches s (.ldStVx x) → s.reg x = 1 → ∃ t, step s = .next t ∧ t.soundActive = false)

/-! ### The host's operations -/

/-- Every component of the spec's state has its value of 10_state.md R49 right after reset, and after reset() from any state,
halted or not (70_reset_and_hazards.md R250). The font bytes are those of the parameter FONT, by name. -/
def Obligations.ResetValues : Prop :=
  ∀ s t : State, t = State.reset ∨ s.hostMove .reset = .next t →
    (∀ a, a < 0x1000 → t.readByte a = if 0x050 ≤ a ∧ a < 0x0A0 then fontTable.getD (a - 0x050) 0 else 0) ∧
    (∀ r : Reg, t.reg r = 0 ∧ t.stack[r.toNat] = 0 ∧ t.keyDown r = false) ∧
    t.i = 0 ∧ t.pc = 0x200 ∧ t.sp = 0 ∧ t.dt = 0 ∧ t.st = 0 ∧ (∀ x y, x < 64 → y < 32 → t.pixel x y = false) ∧
    t.dirty = false ∧ t.faultCode.code = 0 ∧ t.faultPc = 0 ∧ t.faultInfo = 0

/-- load(bytes) copies the program to 0x200 and up and changes nothing else; a longer program than 3584 bytes is refused
whole (70_reset_and_hazards.md R252, 60_exceptions.md R238). -/
def Obligations.LoadCopiesProgram : Prop :=
  ∀ (s : State) (bytes : List Byte),
    (bytes.length > 3584 → s.load bytes = (.loadError, s)) ∧
    (bytes.length ≤ 3584 → ∃ t, s.load bytes = (.ok, t) ∧
      (∀ k, k < bytes.length → t.readByte (0x200 + k) = bytes.getD k 0) ∧
      SameBytesOutside s t 0x200 bytes.length ∧ t = { s with mem := t.mem })

/-- The glyph of a digit: FX29 with VX = d in 0..15 points I at its five bytes right after reset, and only bits 7..4 of a font
byte are set (20_memory.md R64, 43_index_memory.md R183). The bytes are the parameter FONT, by name. -/
def Obligations.GlyphOfDigit : Prop :=
  ∀ (d x : Reg) (k : Nat), k < 5 →
    ∃ t, exec (.ldFVx x) (State.reset.setReg x (d.setWidth 8)) = .next t ∧
      t.readByte (t.i.toNat + k) = (fontGlyphs.getD d.toNat []).getD k 0 ∧
      (t.readByte (t.i.toNat + k)).toNat % 16 = 0

/-- The host's reading ports: read_dirty answers the flag and clears it alone, sound is active exactly while ST is not 0, the
fault port answers the fault status, and a step's result is 0 exactly when the core still runs after it (10_state.md R43,
R44, R45, R48). -/
def Obligations.HostPortsRead : Prop :=
  ∀ s : State,
    s.readDirty.1 = s.dirty ∧ s.readDirty.2 = { s with dirty := false } ∧
    (s.soundActive = true ↔ s.st.toNat ≠ 0) ∧
    s.readFault = (s.faultCode.code, s.faultPc, s.faultInfo) ∧
    (∀ t, step s = .next t → (t.stepResult = 0 ↔ t.faultCode = .none))
end

