-- ==== Sys2Proof/Laws/State.lean ====
section
/-! SUPPORT. One lemma per field per update of the state, true by `rfl` (`togglePixel`, which is a conditional update, by
cases), so that no proof unfolds a record update; then the values of the accessors after the updates. -/

namespace Sys2Proof.Machine

open Sys2Proof

variable (s : State)

/-! ### writing a general register -/

@[simp] theorem State.setReg_mem (r : Reg) (u : Byte) : (s.setReg r u).mem = s.mem := rfl
@[simp] theorem State.setReg_v (r : Reg) (u : Byte) : (s.setReg r u).v = s.v.set r.toNat u := rfl
@[simp] theorem State.setReg_i (r : Reg) (u : Byte) : (s.setReg r u).i = s.i := rfl
@[simp] theorem State.setReg_pc (r : Reg) (u : Byte) : (s.setReg r u).pc = s.pc := rfl
@[simp] theorem State.setReg_stack (r : Reg) (u : Byte) : (s.setReg r u).stack = s.stack := rfl
@[simp] theorem State.setReg_sp (r : Reg) (u : Byte) : (s.setReg r u).sp = s.sp := rfl
@[simp] theorem State.setReg_dt (r : Reg) (u : Byte) : (s.setReg r u).dt = s.dt := rfl
@[simp] theorem State.setReg_st (r : Reg) (u : Byte) : (s.setReg r u).st = s.st := rfl
@[simp] theorem State.setReg_fb (r : Reg) (u : Byte) : (s.setReg r u).fb = s.fb := rfl
@[simp] theorem State.setReg_key (r : Reg) (u : Byte) : (s.setReg r u).key = s.key := rfl
@[simp] theorem State.setReg_dirty (r : Reg) (u : Byte) : (s.setReg r u).dirty = s.dirty := rfl
@[simp] theorem State.setReg_faultCode (r : Reg) (u : Byte) : (s.setReg r u).faultCode = s.faultCode := rfl
@[simp] theorem State.setReg_faultPc (r : Reg) (u : Byte) : (s.setReg r u).faultPc = s.faultPc := rfl
@[simp] theorem State.setReg_faultInfo (r : Reg) (u : Byte) : (s.setReg r u).faultInfo = s.faultInfo := rfl
@[simp] theorem State.setReg_rndCount (r : Reg) (u : Byte) : (s.setReg r u).rndCount = s.rndCount := rfl

/-! ### writing I -/

@[simp] theorem State.setI_mem (u : Word) : (s.setI u).mem = s.mem := rfl
@[simp] theorem State.setI_v (u : Word) : (s.setI u).v = s.v := rfl
@[simp] theorem State.setI_i (u : Word) : (s.setI u).i = u := rfl
@[simp] theorem State.setI_pc (u : Word) : (s.setI u).pc = s.pc := rfl
@[simp] theorem State.setI_stack (u : Word) : (s.setI u).stack = s.stack := rfl
@[simp] theorem State.setI_sp (u : Word) : (s.setI u).sp = s.sp := rfl
@[simp] theorem State.setI_dt (u : Word) : (s.setI u).dt = s.dt := rfl
@[simp] theorem State.setI_st (u : Word) : (s.setI u).st = s.st := rfl
@[simp] theorem State.setI_fb (u : Word) : (s.setI u).fb = s.fb := rfl
@[simp] theorem State.setI_key (u : Word) : (s.setI u).key = s.key := rfl
@[simp] theorem State.setI_dirty (u : Word) : (s.setI u).dirty = s.dirty := rfl
@[simp] theorem State.setI_faultCode (u : Word) : (s.setI u).faultCode = s.faultCode := rfl
@[simp] theorem State.setI_faultPc (u : Word) : (s.setI u).faultPc = s.faultPc := rfl
@[simp] theorem State.setI_faultInfo (u : Word) : (s.setI u).faultInfo = s.faultInfo := rfl
@[simp] theorem State.setI_rndCount (u : Word) : (s.setI u).rndCount = s.rndCount := rfl

/-! ### writing pc -/

@[simp] theorem State.setPc_mem (u : Word) : (s.setPc u).mem = s.mem := rfl
@[simp] theorem State.setPc_v (u : Word) : (s.setPc u).v = s.v := rfl
@[simp] theorem State.setPc_i (u : Word) : (s.setPc u).i = s.i := rfl
@[simp] theorem State.setPc_pc (u : Word) : (s.setPc u).pc = u := rfl
@[simp] theorem State.setPc_stack (u : Word) : (s.setPc u).stack = s.stack := rfl
@[simp] theorem State.setPc_sp (u : Word) : (s.setPc u).sp = s.sp := rfl
@[simp] theorem State.setPc_dt (u : Word) : (s.setPc u).dt = s.dt := rfl
@[simp] theorem State.setPc_st (u : Word) : (s.setPc u).st = s.st := rfl
@[simp] theorem State.setPc_fb (u : Word) : (s.setPc u).fb = s.fb := rfl
@[simp] theorem State.setPc_key (u : Word) : (s.setPc u).key = s.key := rfl
@[simp] theorem State.setPc_dirty (u : Word) : (s.setPc u).dirty = s.dirty := rfl
@[simp] theorem State.setPc_faultCode (u : Word) : (s.setPc u).faultCode = s.faultCode := rfl
@[simp] theorem State.setPc_faultPc (u : Word) : (s.setPc u).faultPc = s.faultPc := rfl
@[simp] theorem State.setPc_faultInfo (u : Word) : (s.setPc u).faultInfo = s.faultInfo := rfl
@[simp] theorem State.setPc_rndCount (u : Word) : (s.setPc u).rndCount = s.rndCount := rfl

/-! ### falling through -/

@[simp] theorem State.advance_mem : (s.advance).mem = s.mem := rfl
@[simp] theorem State.advance_v : (s.advance).v = s.v := rfl
@[simp] theorem State.advance_i : (s.advance).i = s.i := rfl
@[simp] theorem State.advance_pc : (s.advance).pc = s.pc + 2 := rfl
@[simp] theorem State.advance_stack : (s.advance).stack = s.stack := rfl
@[simp] theorem State.advance_sp : (s.advance).sp = s.sp := rfl
@[simp] theorem State.advance_dt : (s.advance).dt = s.dt := rfl
@[simp] theorem State.advance_st : (s.advance).st = s.st := rfl
@[simp] theorem State.advance_fb : (s.advance).fb = s.fb := rfl
@[simp] theorem State.advance_key : (s.advance).key = s.key := rfl
@[simp] theorem State.advance_dirty : (s.advance).dirty = s.dirty := rfl
@[simp] theorem State.advance_faultCode : (s.advance).faultCode = s.faultCode := rfl
@[simp] theorem State.advance_faultPc : (s.advance).faultPc = s.faultPc := rfl
@[simp] theorem State.advance_faultInfo : (s.advance).faultInfo = s.faultInfo := rfl
@[simp] theorem State.advance_rndCount : (s.advance).rndCount = s.rndCount := rfl

/-! ### skipping -/

@[simp] theorem State.skipIf_mem (c : Bool) : (s.skipIf c).mem = s.mem := rfl
@[simp] theorem State.skipIf_v (c : Bool) : (s.skipIf c).v = s.v := rfl
@[simp] theorem State.skipIf_i (c : Bool) : (s.skipIf c).i = s.i := rfl
@[simp] theorem State.skipIf_pc (c : Bool) : (s.skipIf c).pc = if c then s.pc + 4 else s.pc + 2 := rfl
@[simp] theorem State.skipIf_stack (c : Bool) : (s.skipIf c).stack = s.stack := rfl
@[simp] theorem State.skipIf_sp (c : Bool) : (s.skipIf c).sp = s.sp := rfl
@[simp] theorem State.skipIf_dt (c : Bool) : (s.skipIf c).dt = s.dt := rfl
@[simp] theorem State.skipIf_st (c : Bool) : (s.skipIf c).st = s.st := rfl
@[simp] theorem State.skipIf_fb (c : Bool) : (s.skipIf c).fb = s.fb := rfl
@[simp] theorem State.skipIf_key (c : Bool) : (s.skipIf c).key = s.key := rfl
@[simp] theorem State.skipIf_dirty (c : Bool) : (s.skipIf c).dirty = s.dirty := rfl
@[simp] theorem State.skipIf_faultCode (c : Bool) : (s.skipIf c).faultCode = s.faultCode := rfl
@[simp] theorem State.skipIf_faultPc (c : Bool) : (s.skipIf c).faultPc = s.faultPc := rfl
@[simp] theorem State.skipIf_faultInfo (c : Bool) : (s.skipIf c).faultInfo = s.faultInfo := rfl
@[simp] theorem State.skipIf_rndCount (c : Bool) : (s.skipIf c).rndCount = s.rndCount := rfl

/-! ### writing DT -/

@[simp] theorem State.setDt_mem (u : Byte) : (s.setDt u).mem = s.mem := rfl
@[simp] theorem State.setDt_v (u : Byte) : (s.setDt u).v = s.v := rfl
@[simp] theorem State.setDt_i (u : Byte) : (s.setDt u).i = s.i := rfl
@[simp] theorem State.setDt_pc (u : Byte) : (s.setDt u).pc = s.pc := rfl
@[simp] theorem State.setDt_stack (u : Byte) : (s.setDt u).stack = s.stack := rfl
@[simp] theorem State.setDt_sp (u : Byte) : (s.setDt u).sp = s.sp := rfl
@[simp] theorem State.setDt_dt (u : Byte) : (s.setDt u).dt = u := rfl
@[simp] theorem State.setDt_st (u : Byte) : (s.setDt u).st = s.st := rfl
@[simp] theorem State.setDt_fb (u : Byte) : (s.setDt u).fb = s.fb := rfl
@[simp] theorem State.setDt_key (u : Byte) : (s.setDt u).key = s.key := rfl
@[simp] theorem State.setDt_dirty (u : Byte) : (s.setDt u).dirty = s.dirty := rfl
@[simp] theorem State.setDt_faultCode (u : Byte) : (s.setDt u).faultCode = s.faultCode := rfl
@[simp] theorem State.setDt_faultPc (u : Byte) : (s.setDt u).faultPc = s.faultPc := rfl
@[simp] theorem State.setDt_faultInfo (u : Byte) : (s.setDt u).faultInfo = s.faultInfo := rfl
@[simp] theorem State.setDt_rndCount (u : Byte) : (s.setDt u).rndCount = s.rndCount := rfl

/-! ### writing ST -/

@[simp] theorem State.setSt_mem (u : Byte) : (s.setSt u).mem = s.mem := rfl
@[simp] theorem State.setSt_v (u : Byte) : (s.setSt u).v = s.v := rfl
@[simp] theorem State.setSt_i (u : Byte) : (s.setSt u).i = s.i := rfl
@[simp] theorem State.setSt_pc (u : Byte) : (s.setSt u).pc = s.pc := rfl
@[simp] theorem State.setSt_stack (u : Byte) : (s.setSt u).stack = s.stack := rfl
@[simp] theorem State.setSt_sp (u : Byte) : (s.setSt u).sp = s.sp := rfl
@[simp] theorem State.setSt_dt (u : Byte) : (s.setSt u).dt = s.dt := rfl
@[simp] theorem State.setSt_st (u : Byte) : (s.setSt u).st = u := rfl
@[simp] theorem State.setSt_fb (u : Byte) : (s.setSt u).fb = s.fb := rfl
@[simp] theorem State.setSt_key (u : Byte) : (s.setSt u).key = s.key := rfl
@[simp] theorem State.setSt_dirty (u : Byte) : (s.setSt u).dirty = s.dirty := rfl
@[simp] theorem State.setSt_faultCode (u : Byte) : (s.setSt u).faultCode = s.faultCode := rfl
@[simp] theorem State.setSt_faultPc (u : Byte) : (s.setSt u).faultPc = s.faultPc := rfl
@[simp] theorem State.setSt_faultInfo (u : Byte) : (s.setSt u).faultInfo = s.faultInfo := rfl
@[simp] theorem State.setSt_rndCount (u : Byte) : (s.setSt u).rndCount = s.rndCount := rfl

/-! ### storing a byte -/

@[simp] theorem State.writeByte_mem (a : Nat) (u : Byte) : (s.writeByte a u).mem = Memory.write s.mem a u := rfl
@[simp] theorem State.writeByte_v (a : Nat) (u : Byte) : (s.writeByte a u).v = s.v := rfl
@[simp] theorem State.writeByte_i (a : Nat) (u : Byte) : (s.writeByte a u).i = s.i := rfl
@[simp] theorem State.writeByte_pc (a : Nat) (u : Byte) : (s.writeByte a u).pc = s.pc := rfl
@[simp] theorem State.writeByte_stack (a : Nat) (u : Byte) : (s.writeByte a u).stack = s.stack := rfl
@[simp] theorem State.writeByte_sp (a : Nat) (u : Byte) : (s.writeByte a u).sp = s.sp := rfl
@[simp] theorem State.writeByte_dt (a : Nat) (u : Byte) : (s.writeByte a u).dt = s.dt := rfl
@[simp] theorem State.writeByte_st (a : Nat) (u : Byte) : (s.writeByte a u).st = s.st := rfl
@[simp] theorem State.writeByte_fb (a : Nat) (u : Byte) : (s.writeByte a u).fb = s.fb := rfl
@[simp] theorem State.writeByte_key (a : Nat) (u : Byte) : (s.writeByte a u).key = s.key := rfl
@[simp] theorem State.writeByte_dirty (a : Nat) (u : Byte) : (s.writeByte a u).dirty = s.dirty := rfl
@[simp] theorem State.writeByte_faultCode (a : Nat) (u : Byte) : (s.writeByte a u).faultCode = s.faultCode := rfl
@[simp] theorem State.writeByte_faultPc (a : Nat) (u : Byte) : (s.writeByte a u).faultPc = s.faultPc := rfl
@[simp] theorem State.writeByte_faultInfo (a : Nat) (u : Byte) : (s.writeByte a u).faultInfo = s.faultInfo := rfl
@[simp] theorem State.writeByte_rndCount (a : Nat) (u : Byte) : (s.writeByte a u).rndCount = s.rndCount := rfl

/-! ### clearing the frame buffer -/

@[simp] theorem State.clearPixels_mem : (s.clearPixels).mem = s.mem := rfl
@[simp] theorem State.clearPixels_v : (s.clearPixels).v = s.v := rfl
@[simp] theorem State.clearPixels_i : (s.clearPixels).i = s.i := rfl
@[simp] theorem State.clearPixels_pc : (s.clearPixels).pc = s.pc := rfl
@[simp] theorem State.clearPixels_stack : (s.clearPixels).stack = s.stack := rfl
@[simp] theorem State.clearPixels_sp : (s.clearPixels).sp = s.sp := rfl
@[simp] theorem State.clearPixels_dt : (s.clearPixels).dt = s.dt := rfl
@[simp] theorem State.clearPixels_st : (s.clearPixels).st = s.st := rfl
@[simp] theorem State.clearPixels_fb : (s.clearPixels).fb = Vector.replicate 64 (Vector.replicate 32 false) := rfl
@[simp] theorem State.clearPixels_key : (s.clearPixels).key = s.key := rfl
@[simp] theorem State.clearPixels_dirty : (s.clearPixels).dirty = s.dirty := rfl
@[simp] theorem State.clearPixels_faultCode : (s.clearPixels).faultCode = s.faultCode := rfl
@[simp] theorem State.clearPixels_faultPc : (s.clearPixels).faultPc = s.faultPc := rfl
@[simp] theorem State.clearPixels_faultInfo : (s.clearPixels).faultInfo = s.faultInfo := rfl
@[simp] theorem State.clearPixels_rndCount : (s.clearPixels).rndCount = s.rndCount := rfl

/-! ### setting the redraw flag -/

@[simp] theorem State.setDirty_mem : (s.setDirty).mem = s.mem := rfl
@[simp] theorem State.setDirty_v : (s.setDirty).v = s.v := rfl
@[simp] theorem State.setDirty_i : (s.setDirty).i = s.i := rfl
@[simp] theorem State.setDirty_pc : (s.setDirty).pc = s.pc := rfl
@[simp] theorem State.setDirty_stack : (s.setDirty).stack = s.stack := rfl
@[simp] theorem State.setDirty_sp : (s.setDirty).sp = s.sp := rfl
@[simp] theorem State.setDirty_dt : (s.setDirty).dt = s.dt := rfl
@[simp] theorem State.setDirty_st : (s.setDirty).st = s.st := rfl
@[simp] theorem State.setDirty_fb : (s.setDirty).fb = s.fb := rfl
@[simp] theorem State.setDirty_key : (s.setDirty).key = s.key := rfl
@[simp] theorem State.setDirty_dirty : (s.setDirty).dirty = true := rfl
@[simp] theorem State.setDirty_faultCode : (s.setDirty).faultCode = s.faultCode := rfl
@[simp] theorem State.setDirty_faultPc : (s.setDirty).faultPc = s.faultPc := rfl
@[simp] theorem State.setDirty_faultInfo : (s.setDirty).faultInfo = s.faultInfo := rfl
@[simp] theorem State.setDirty_rndCount : (s.setDirty).rndCount = s.rndCount := rfl

/-! ### pushing pc -/

@[simp] theorem State.pushPc_mem (h : s.sp.val < 16) : (s.pushPc h).mem = s.mem := rfl
@[simp] theorem State.pushPc_v (h : s.sp.val < 16) : (s.pushPc h).v = s.v := rfl
@[simp] theorem State.pushPc_i (h : s.sp.val < 16) : (s.pushPc h).i = s.i := rfl
@[simp] theorem State.pushPc_pc (h : s.sp.val < 16) : (s.pushPc h).pc = s.pc := rfl
@[simp] theorem State.pushPc_stack (h : s.sp.val < 16) : (s.pushPc h).stack = s.stack.set s.sp.val s.pc := rfl
@[simp] theorem State.pushPc_sp (h : s.sp.val < 16) : (s.pushPc h).sp = ⟨s.sp.val + 1, by omega⟩ := rfl
@[simp] theorem State.pushPc_dt (h : s.sp.val < 16) : (s.pushPc h).dt = s.dt := rfl
@[simp] theorem State.pushPc_st (h : s.sp.val < 16) : (s.pushPc h).st = s.st := rfl
@[simp] theorem State.pushPc_fb (h : s.sp.val < 16) : (s.pushPc h).fb = s.fb := rfl
@[simp] theorem State.pushPc_key (h : s.sp.val < 16) : (s.pushPc h).key = s.key := rfl
@[simp] theorem State.pushPc_dirty (h : s.sp.val < 16) : (s.pushPc h).dirty = s.dirty := rfl
@[simp] theorem State.pushPc_faultCode (h : s.sp.val < 16) : (s.pushPc h).faultCode = s.faultCode := rfl
@[simp] theorem State.pushPc_faultPc (h : s.sp.val < 16) : (s.pushPc h).faultPc = s.faultPc := rfl
@[simp] theorem State.pushPc_faultInfo (h : s.sp.val < 16) : (s.pushPc h).faultInfo = s.faultInfo := rfl
@[simp] theorem State.pushPc_rndCount (h : s.sp.val < 16) : (s.pushPc h).rndCount = s.rndCount := rfl

/-! ### popping -/

@[simp] theorem State.popSp_mem : (s.popSp).mem = s.mem := rfl
@[simp] theorem State.popSp_v : (s.popSp).v = s.v := rfl
@[simp] theorem State.popSp_i : (s.popSp).i = s.i := rfl
@[simp] theorem State.popSp_pc : (s.popSp).pc = s.pc := rfl
@[simp] theorem State.popSp_stack : (s.popSp).stack = s.stack := rfl
@[simp] theorem State.popSp_sp : (s.popSp).sp = ⟨s.sp.val - 1, by omega⟩ := rfl
@[simp] theorem State.popSp_dt : (s.popSp).dt = s.dt := rfl
@[simp] theorem State.popSp_st : (s.popSp).st = s.st := rfl
@[simp] theorem State.popSp_fb : (s.popSp).fb = s.fb := rfl
@[simp] theorem State.popSp_key : (s.popSp).key = s.key := rfl
@[simp] theorem State.popSp_dirty : (s.popSp).dirty = s.dirty := rfl
@[simp] theorem State.popSp_faultCode : (s.popSp).faultCode = s.faultCode := rfl
@[simp] theorem State.popSp_faultPc : (s.popSp).faultPc = s.faultPc := rfl
@[simp] theorem State.popSp_faultInfo : (s.popSp).faultInfo = s.faultInfo := rfl
@[simp] theorem State.popSp_rndCount : (s.popSp).rndCount = s.rndCount := rfl

/-! ### drawing a random byte -/

@[simp] theorem State.drawn_mem : (s.drawn).mem = s.mem := rfl
@[simp] theorem State.drawn_v : (s.drawn).v = s.v := rfl
@[simp] theorem State.drawn_i : (s.drawn).i = s.i := rfl
@[simp] theorem State.drawn_pc : (s.drawn).pc = s.pc := rfl
@[simp] theorem State.drawn_stack : (s.drawn).stack = s.stack := rfl
@[simp] theorem State.drawn_sp : (s.drawn).sp = s.sp := rfl
@[simp] theorem State.drawn_dt : (s.drawn).dt = s.dt := rfl
@[simp] theorem State.drawn_st : (s.drawn).st = s.st := rfl
@[simp] theorem State.drawn_fb : (s.drawn).fb = s.fb := rfl
@[simp] theorem State.drawn_key : (s.drawn).key = s.key := rfl
@[simp] theorem State.drawn_dirty : (s.drawn).dirty = s.dirty := rfl
@[simp] theorem State.drawn_faultCode : (s.drawn).faultCode = s.faultCode := rfl
@[simp] theorem State.drawn_faultPc : (s.drawn).faultPc = s.faultPc := rfl
@[simp] theorem State.drawn_faultInfo : (s.drawn).faultInfo = s.faultInfo := rfl
@[simp] theorem State.drawn_rndCount : (s.drawn).rndCount = s.rndCount + 1 := rfl

/-! ### taking a fault -/

@[simp] theorem State.raiseFault_mem (f : FaultCode) (u : Word) : (s.raiseFault f u).mem = s.mem := rfl
@[simp] theorem State.raiseFault_v (f : FaultCode) (u : Word) : (s.raiseFault f u).v = s.v := rfl
@[simp] theorem State.raiseFault_i (f : FaultCode) (u : Word) : (s.raiseFault f u).i = s.i := rfl
@[simp] theorem State.raiseFault_pc (f : FaultCode) (u : Word) : (s.raiseFault f u).pc = s.pc := rfl
@[simp] theorem State.raiseFault_stack (f : FaultCode) (u : Word) : (s.raiseFault f u).stack = s.stack := rfl
@[simp] theorem State.raiseFault_sp (f : FaultCode) (u : Word) : (s.raiseFault f u).sp = s.sp := rfl
@[simp] theorem State.raiseFault_dt (f : FaultCode) (u : Word) : (s.raiseFault f u).dt = s.dt := rfl
@[simp] theorem State.raiseFault_st (f : FaultCode) (u : Word) : (s.raiseFault f u).st = s.st := rfl
@[simp] theorem State.raiseFault_fb (f : FaultCode) (u : Word) : (s.raiseFault f u).fb = s.fb := rfl
@[simp] theorem State.raiseFault_key (f : FaultCode) (u : Word) : (s.raiseFault f u).key = s.key := rfl
@[simp] theorem State.raiseFault_dirty (f : FaultCode) (u : Word) : (s.raiseFault f u).dirty = s.dirty := rfl
@[simp] theorem State.raiseFault_faultCode (f : FaultCode) (u : Word) : (s.raiseFault f u).faultCode = f := rfl
@[simp] theorem State.raiseFault_faultPc (f : FaultCode) (u : Word) : (s.raiseFault f u).faultPc = s.pc := rfl
@[simp] theorem State.raiseFault_faultInfo (f : FaultCode) (u : Word) : (s.raiseFault f u).faultInfo = u := rfl
@[simp] theorem State.raiseFault_rndCount (f : FaultCode) (u : Word) : (s.raiseFault f u).rndCount = s.rndCount := rfl

/-! ### the tick -/

@[simp] theorem State.tick_mem : (s.tick).mem = s.mem := rfl
@[simp] theorem State.tick_v : (s.tick).v = s.v := rfl
@[simp] theorem State.tick_i : (s.tick).i = s.i := rfl
@[simp] theorem State.tick_pc : (s.tick).pc = s.pc := rfl
@[simp] theorem State.tick_stack : (s.tick).stack = s.stack := rfl
@[simp] theorem State.tick_sp : (s.tick).sp = s.sp := rfl
@[simp] theorem State.tick_dt : (s.tick).dt = tickTimer s.dt := rfl
@[simp] theorem State.tick_st : (s.tick).st = tickTimer s.st := rfl
@[simp] theorem State.tick_fb : (s.tick).fb = s.fb := rfl
@[simp] theorem State.tick_key : (s.tick).key = s.key := rfl
@[simp] theorem State.tick_dirty : (s.tick).dirty = s.dirty := rfl
@[simp] theorem State.tick_faultCode : (s.tick).faultCode = s.faultCode := rfl
@[simp] theorem State.tick_faultPc : (s.tick).faultPc = s.faultPc := rfl
@[simp] theorem State.tick_faultInfo : (s.tick).faultInfo = s.faultInfo := rfl
@[simp] theorem State.tick_rndCount : (s.tick).rndCount = s.rndCount := rfl

/-! ### writing a key state -/

@[simp] theorem State.setKey_mem (k : Reg) (b : Bool) : (s.setKey k b).mem = s.mem := rfl
@[simp] theorem State.setKey_v (k : Reg) (b : Bool) : (s.setKey k b).v = s.v := rfl
@[simp] theorem State.setKey_i (k : Reg) (b : Bool) : (s.setKey k b).i = s.i := rfl
@[simp] theorem State.setKey_pc (k : Reg) (b : Bool) : (s.setKey k b).pc = s.pc := rfl
@[simp] theorem State.setKey_stack (k : Reg) (b : Bool) : (s.setKey k b).stack = s.stack := rfl
@[simp] theorem State.setKey_sp (k : Reg) (b : Bool) : (s.setKey k b).sp = s.sp := rfl
@[simp] theorem State.setKey_dt (k : Reg) (b : Bool) : (s.setKey k b).dt = s.dt := rfl
@[simp] theorem State.setKey_st (k : Reg) (b : Bool) : (s.setKey k b).st = s.st := rfl
@[simp] theorem State.setKey_fb (k : Reg) (b : Bool) : (s.setKey k b).fb = s.fb := rfl
@[simp] theorem State.setKey_key (k : Reg) (b : Bool) : (s.setKey k b).key = s.key.set k.toNat b := rfl
@[simp] theorem State.setKey_dirty (k : Reg) (b : Bool) : (s.setKey k b).dirty = s.dirty := rfl
@[simp] theorem State.setKey_faultCode (k : Reg) (b : Bool) : (s.setKey k b).faultCode = s.faultCode := rfl
@[simp] theorem State.setKey_faultPc (k : Reg) (b : Bool) : (s.setKey k b).faultPc = s.faultPc := rfl
@[simp] theorem State.setKey_faultInfo (k : Reg) (b : Bool) : (s.setKey k b).faultInfo = s.faultInfo := rfl
@[simp] theorem State.setKey_rndCount (k : Reg) (b : Bool) : (s.setKey k b).rndCount = s.rndCount := rfl

/-! ### toggling a pixel -/

@[simp] theorem State.togglePixel_mem (x y : Nat) : (s.togglePixel x y).mem = s.mem := by
  unfold State.togglePixel; split <;> rfl
@[simp] theorem State.togglePixel_v (x y : Nat) : (s.togglePixel x y).v = s.v := by
  unfold State.togglePixel; split <;> rfl
@[simp] theorem State.togglePixel_i (x y : Nat) : (s.togglePixel x y).i = s.i := by
  unfold State.togglePixel; split <;> rfl
@[simp] theorem State.togglePixel_pc (x y : Nat) : (s.togglePixel x y).pc = s.pc := by
  unfold State.togglePixel; split <;> rfl
@[simp] theorem State.togglePixel_stack (x y : Nat) : (s.togglePixel x y).stack = s.stack := by
  unfold State.togglePixel; split <;> rfl
@[simp] theorem State.togglePixel_sp (x y : Nat) : (s.togglePixel x y).sp = s.sp := by
  unfold State.togglePixel; split <;> rfl
@[simp] theorem State.togglePixel_dt (x y : Nat) : (s.togglePixel x y).dt = s.dt := by
  unfold State.togglePixel; split <;> rfl
@[simp] theorem State.togglePixel_st (x y : Nat) : (s.togglePixel x y).st = s.st := by
  unfold State.togglePixel; split <;> rfl
@[simp] theorem State.togglePixel_key (x y : Nat) : (s.togglePixel x y).key = s.key := by
  unfold State.togglePixel; split <;> rfl
@[simp] theorem State.togglePixel_dirty (x y : Nat) : (s.togglePixel x y).dirty = s.dirty := by
  unfold State.togglePixel; split <;> rfl
@[simp] theorem State.togglePixel_faultCode (x y : Nat) : (s.togglePixel x y).faultCode = s.faultCode := by
  unfold State.togglePixel; split <;> rfl
@[simp] theorem State.togglePixel_faultPc (x y : Nat) : (s.togglePixel x y).faultPc = s.faultPc := by
  unfold State.togglePixel; split <;> rfl
@[simp] theorem State.togglePixel_faultInfo (x y : Nat) : (s.togglePixel x y).faultInfo = s.faultInfo := by
  unfold State.togglePixel; split <;> rfl
@[simp] theorem State.togglePixel_rndCount (x y : Nat) : (s.togglePixel x y).rndCount = s.rndCount := by
  unfold State.togglePixel; split <;> rfl

/-! ### general registers -/

/-- Reading a register after writing one (10_state.md R21). -/
@[simp] theorem State.reg_setReg (r q : Reg) (u : Byte) :
    (s.setReg r u).reg q = if q = r then u else s.reg q := by
  unfold State.reg
  rw [State.setReg_v, Vector.getElem_set]
  by_cases h : q = r
  · simp [h]
  · rw [if_neg (fun e => h (BitVec.eq_of_toNat_eq e.symm)), if_neg h]

/-- A register depends on `v` alone. -/
theorem State.reg_congr {s t : State} (h : t.v = s.v) (q : Reg) : t.reg q = s.reg q := by
  unfold State.reg; simp only [h]

/-- Registers that agree one by one are equal. -/
theorem State.v_ext {s t : State} (h : ∀ q : Reg, t.reg q = s.reg q) : t.v = s.v := by
  apply Vector.ext
  intro k hk
  have := h (BitVec.ofNat 4 k)
  simpa [State.reg, Nat.mod_eq_of_lt hk] using this

@[simp] theorem State.reg_setI (u : Word) (q : Reg) : (s.setI u).reg q = s.reg q := rfl
@[simp] theorem State.reg_setPc (u : Word) (q : Reg) : (s.setPc u).reg q = s.reg q := rfl
@[simp] theorem State.reg_advance (q : Reg) : (s.advance).reg q = s.reg q := rfl
@[simp] theorem State.reg_skipIf (c : Bool) (q : Reg) : (s.skipIf c).reg q = s.reg q := rfl
@[simp] theorem State.reg_setDt (u : Byte) (q : Reg) : (s.setDt u).reg q = s.reg q := rfl
@[simp] theorem State.reg_setSt (u : Byte) (q : Reg) : (s.setSt u).reg q = s.reg q := rfl
@[simp] theorem State.reg_writeByte (a : Nat) (u : Byte) (q : Reg) : (s.writeByte a u).reg q = s.reg q := rfl
@[simp] theorem State.reg_clearPixels (q : Reg) : (s.clearPixels).reg q = s.reg q := rfl
@[simp] theorem State.reg_setDirty (q : Reg) : (s.setDirty).reg q = s.reg q := rfl
@[simp] theorem State.reg_pushPc (h : s.sp.val < 16) (q : Reg) : (s.pushPc h).reg q = s.reg q := rfl
@[simp] theorem State.reg_popSp (q : Reg) : (s.popSp).reg q = s.reg q := rfl
@[simp] theorem State.reg_drawn (q : Reg) : (s.drawn).reg q = s.reg q := rfl
@[simp] theorem State.reg_raiseFault (f : FaultCode) (u : Word) (q : Reg) : (s.raiseFault f u).reg q = s.reg q := rfl
@[simp] theorem State.reg_tick (q : Reg) : (s.tick).reg q = s.reg q := rfl
@[simp] theorem State.reg_setKey (k : Reg) (b : Bool) (q : Reg) : (s.setKey k b).reg q = s.reg q := rfl
@[simp] theorem State.reg_togglePixel (x y : Nat) (q : Reg) : (s.togglePixel x y).reg q = s.reg q :=
  State.reg_congr (by simp) q

/-! ### keys -/

/-- Reading a key state after the host writes one (10_state.md R41). -/
@[simp] theorem State.keyDown_setKey (k j : Reg) (b : Bool) :
    (s.setKey k b).keyDown j = if j = k then b else s.keyDown j := by
  unfold State.keyDown
  rw [State.setKey_key, Vector.getElem_set]
  by_cases h : j = k
  · simp [h]
  · rw [if_neg (fun e => h (BitVec.eq_of_toNat_eq e.symm)), if_neg h]

/-! ### bytes of memory, for updates that leave memory alone -/

@[simp] theorem State.readByte_setReg (r : Reg) (u : Byte) (a : Nat) : (s.setReg r u).readByte a = s.readByte a := rfl
@[simp] theorem State.readByte_setI (u : Word) (a : Nat) : (s.setI u).readByte a = s.readByte a := rfl
@[simp] theorem State.readByte_setPc (u : Word) (a : Nat) : (s.setPc u).readByte a = s.readByte a := rfl
@[simp] theorem State.readByte_advance (a : Nat) : (s.advance).readByte a = s.readByte a := rfl
@[simp] theorem State.readByte_skipIf (c : Bool) (a : Nat) : (s.skipIf c).readByte a = s.readByte a := rfl
@[simp] theorem State.readByte_setDt (u : Byte) (a : Nat) : (s.setDt u).readByte a = s.readByte a := rfl
@[simp] theorem State.readByte_setSt (u : Byte) (a : Nat) : (s.setSt u).readByte a = s.readByte a := rfl
@[simp] theorem State.readByte_clearPixels (a : Nat) : (s.clearPixels).readByte a = s.readByte a := rfl
@[simp] theorem State.readByte_setDirty (a : Nat) : (s.setDirty).readByte a = s.readByte a := rfl
@[simp] theorem State.readByte_pushPc (h : s.sp.val < 16) (a : Nat) : (s.pushPc h).readByte a = s.readByte a := rfl
@[simp] theorem State.readByte_popSp (a : Nat) : (s.popSp).readByte a = s.readByte a := rfl
@[simp] theorem State.readByte_drawn (a : Nat) : (s.drawn).readByte a = s.readByte a := rfl
@[simp] theorem State.readByte_raiseFault (f : FaultCode) (u : Word) (a : Nat) : (s.raiseFault f u).readByte a = s.readByte a := rfl
@[simp] theorem State.readByte_tick (a : Nat) : (s.tick).readByte a = s.readByte a := rfl
@[simp] theorem State.readByte_setKey (k : Reg) (b : Bool) (a : Nat) : (s.setKey k b).readByte a = s.readByte a := rfl
@[simp] theorem State.readByte_togglePixel (x y a : Nat) : (s.togglePixel x y).readByte a = s.readByte a := by
  simp [State.readByte]

/-! ### pixels -/

/-- Two coordinates that are one pixel. -/
theorem State.pixel_of_lt {x y : Nat} (hx : x < 64) (hy : y < 32) : s.pixel x y = s.fb[x][y] := by
  simp [State.pixel, hx, hy]

/-- A pixel depends on `fb` alone. -/
theorem State.pixel_congr {s t : State} (h : t.fb = s.fb) (x y : Nat) : t.pixel x y = s.pixel x y := by
  unfold State.pixel; simp only [h]

/-- Reading a pixel after toggling one on the grid (40_display.md R112). -/
theorem State.pixel_togglePixel {x y : Nat} (hx : x < 64) (hy : y < 32) (p q : Nat) :
    (s.togglePixel x y).pixel p q = if p = x ∧ q = y then !s.pixel x y else s.pixel p q := by
  have ht : s.togglePixel x y = { s with fb := s.fb.set x (s.fb[x].set y (!s.fb[x][y])) } := by
    simp [State.togglePixel, hx, hy]
  rw [State.pixel_of_lt s hx hy, ht]
  unfold State.pixel
  by_cases hp : p < 64 ∧ q < 32
  · simp only [hp, and_self, dite_true]
    by_cases hpx : x = p
    · subst hpx
      by_cases hqy : y = q
      · subst hqy; simp
      · simp [hqy, Ne.symm hqy]
    · simp [hpx, Ne.symm hpx]
  · have : ¬ (p = x ∧ q = y) := by omega
    simp [hp, this]

/-- After clearing no pixel is lit (40_display.md R111). -/
@[simp] theorem State.pixel_clearPixels (x y : Nat) : s.clearPixels.pixel x y = false := by
  unfold State.pixel; split <;> simp

@[simp] theorem State.pixel_setReg (r : Reg) (u : Byte) (x y : Nat) : (s.setReg r u).pixel x y = s.pixel x y := rfl
@[simp] theorem State.pixel_setI (u : Word) (x y : Nat) : (s.setI u).pixel x y = s.pixel x y := rfl
@[simp] theorem State.pixel_setPc (u : Word) (x y : Nat) : (s.setPc u).pixel x y = s.pixel x y := rfl
@[simp] theorem State.pixel_advance (x y : Nat) : (s.advance).pixel x y = s.pixel x y := rfl
@[simp] theorem State.pixel_skipIf (c : Bool) (x y : Nat) : (s.skipIf c).pixel x y = s.pixel x y := rfl
@[simp] theorem State.pixel_setDt (u : Byte) (x y : Nat) : (s.setDt u).pixel x y = s.pixel x y := rfl
@[simp] theorem State.pixel_setSt (u : Byte) (x y : Nat) : (s.setSt u).pixel x y = s.pixel x y := rfl
@[simp] theorem State.pixel_writeByte (a : Nat) (u : Byte) (x y : Nat) : (s.writeByte a u).pixel x y = s.pixel x y := rfl
@[simp] theorem State.pixel_setDirty (x y : Nat) : (s.setDirty).pixel x y = s.pixel x y := rfl
@[simp] theorem State.pixel_pushPc (h : s.sp.val < 16) (x y : Nat) : (s.pushPc h).pixel x y = s.pixel x y := rfl
@[simp] theorem State.pixel_popSp (x y : Nat) : (s.popSp).pixel x y = s.pixel x y := rfl
@[simp] theorem State.pixel_drawn (x y : Nat) : (s.drawn).pixel x y = s.pixel x y := rfl
@[simp] theorem State.pixel_raiseFault (f : FaultCode) (u : Word) (x y : Nat) : (s.raiseFault f u).pixel x y = s.pixel x y := rfl
@[simp] theorem State.pixel_tick (x y : Nat) : (s.tick).pixel x y = s.pixel x y := rfl
@[simp] theorem State.pixel_setKey (k : Reg) (b : Bool) (x y : Nat) : (s.setKey k b).pixel x y = s.pixel x y := rfl

@[simp] theorem State.rndByte_setReg (r : Reg) (u : Byte) : (s.setReg r u).rndByte = s.rndByte := rfl

/-! ### halted -/

/-- A core runs when its FAULT_CODE is NONE (10_state.md R34). -/
theorem State.halted_eq_false : s.halted = false ↔ s.faultCode = .none := by simp [State.halted]

/-- A core is halted when its FAULT_CODE is not NONE (10_state.md R34). -/
theorem State.halted_eq_true : s.halted = true ↔ s.faultCode ≠ .none := by simp [State.halted]

end Sys2Proof.Machine
end

