-- ==== Sys2Proof/Laws/Memory.lean ====
section
/-! SUPPORT. The laws of memory: read after write, that every memory operation keeps the canonical form, what the range
checks of 20_memory.md R71 find, and what storing a run of bytes does. -/

namespace Sys2Proof.Machine

open Sys2Proof

/-! ### read after write -/

theorem Memory.read_put_same (m : Memory) (a : Nat) (u : Byte) : (Memory.put m a u).read a = u := by
  induction m with
  | nil => simp [Memory.put, Memory.read]
  | cons c rest ih =>
    obtain ⟨b, w⟩ := c
    unfold Memory.put
    split
    · simp [Memory.read]
    · split
      · simp [Memory.read]
      · rename_i h1 h2
        simp [Memory.read, h2, ih]

theorem Memory.read_put_other (m : Memory) {a b : Nat} (u : Byte) (h : b ≠ a) :
    (Memory.put m a u).read b = Memory.read m b := by
  induction m with
  | nil => simp [Memory.put, Memory.read, h]
  | cons c rest ih =>
    obtain ⟨d, w⟩ := c
    unfold Memory.put
    split
    · simp [Memory.read, h]
    · split
      · rename_i h2
        subst h2
        simp [Memory.read, h]
      · simp [Memory.read, ih]

theorem Memory.read_drop_same (m : Memory) (a : Nat) : Memory.read (Memory.drop m a) a = unlistedByte a := by
  induction m with
  | nil => simp [Memory.drop, Memory.read]
  | cons c rest ih =>
    obtain ⟨b, w⟩ := c
    by_cases h : b = a
    · subst h
      simpa [Memory.drop] using ih
    · simpa [Memory.drop, h, Memory.read, Ne.symm h] using ih

theorem Memory.read_drop_other (m : Memory) {a b : Nat} (h : b ≠ a) :
    Memory.read (Memory.drop m a) b = Memory.read m b := by
  induction m with
  | nil => simp [Memory.drop]
  | cons c rest ih =>
    obtain ⟨d, w⟩ := c
    by_cases hd : d = a
    · subst hd
      simpa [Memory.drop, Memory.read, h] using ih
    · by_cases hb : b = d
      · simp [Memory.drop, hd, Memory.read, hb]
      · simpa [Memory.drop, hd, Memory.read, hb] using ih

/-- Every read returns the most recent write to its address (20_memory.md R72). -/
theorem Memory.read_write (m : Memory) (a b : Nat) (u : Byte) :
    Memory.read (Memory.write m a u) b = if b = a then u else Memory.read m b := by
  unfold Memory.write
  by_cases h : b = a
  · subst h
    split
    · rename_i hu
      rw [Memory.read_drop_same, hu, if_pos rfl]
    · simp [Memory.read_put_same]
  · split
    · simp [Memory.read_drop_other m h]
    · simp [Memory.read_put_other m u h]

/-- `readByte` after `writeByte`. -/
@[simp] theorem State.readByte_writeByte (s : State) (a b : Nat) (u : Byte) :
    (s.writeByte a u).readByte b = if b = a then u else s.readByte b :=
  Memory.read_write s.mem a b u

/-! ### the canonical form -/

/-- The canonical form, written out. -/
theorem Memory.wf_iff (m : Memory) :
    m.wf = true ↔ m.Pairwise (fun c d => c.1 < d.1) ∧ ∀ c ∈ m, c.1 < 0x1000 ∧ c.2 ≠ unlistedByte c.1 := by
  simp [Memory.wf, Config.memSize]

theorem Memory.mem_put (m : Memory) (a : Nat) (u : Byte) (c : Host.Cell) (hc : c ∈ Memory.put m a u) :
    c = (a, u) ∨ c ∈ m := by
  induction m with
  | nil => simpa [Memory.put] using hc
  | cons d rest ih =>
    obtain ⟨b, w⟩ := d
    unfold Memory.put at hc
    split at hc
    · simpa using hc
    · split at hc
      · rcases List.mem_cons.mp hc with h | h
        · exact .inl h
        · exact .inr (List.mem_cons_of_mem _ h)
      · rcases List.mem_cons.mp hc with h | h
        · exact .inr (h ▸ List.mem_cons_self)
        · rcases ih h with h | h
          · exact .inl h
          · exact .inr (List.mem_cons_of_mem _ h)

theorem Memory.put_rising (m : Memory) (a : Nat) (u : Byte) (h : m.Pairwise fun c d => c.1 < d.1) :
    (Memory.put m a u).Pairwise fun c d => c.1 < d.1 := by
  induction m with
  | nil => simp [Memory.put]
  | cons d rest ih =>
    obtain ⟨b, w⟩ := d
    rw [List.pairwise_cons] at h
    unfold Memory.put
    split
    · rename_i hab
      refine List.pairwise_cons.mpr ⟨?_, List.pairwise_cons.mpr h⟩
      intro c hc
      rcases List.mem_cons.mp hc with rfl | hc
      · exact hab
      · exact lt_trans hab (h.1 c hc)
    · split
      · rename_i hab
        subst hab
        exact List.pairwise_cons.mpr h
      · rename_i h1 h2
        refine List.pairwise_cons.mpr ⟨?_, ih h.2⟩
        intro c hc
        rcases Memory.mem_put rest a u c hc with rfl | hc
        · show b < a
          omega
        · exact h.1 c hc

/-- A write inside the address space keeps the canonical form. -/
theorem Memory.wf_write {m : Memory} (h : m.wf = true) {a : Nat} (ha : a < 0x1000) (u : Byte) :
    (Memory.write m a u).wf = true := by
  rw [Memory.wf_iff] at h ⊢
  obtain ⟨hs, hc⟩ := h
  unfold Memory.write
  split
  · exact ⟨hs.filter _, fun c hm => hc c (List.mem_of_mem_filter hm)⟩
  · rename_i hu
    refine ⟨Memory.put_rising m a u hs, fun c hm => ?_⟩
    rcases Memory.mem_put m a u c hm with rfl | hm
    · exact ⟨ha, hu⟩
    · exact hc c hm

/-- Memories in canonical form that read the same everywhere are equal data. -/
theorem Memory.ext_of_wf {m n : Memory} (hm : m.wf = true) (hn : n.wf = true)
    (h : ∀ a, Memory.read m a = Memory.read n a) : m = n := by
  rw [Memory.wf_iff] at hm hn
  have below : ∀ (l : Memory) (a : Nat), (∀ c ∈ l, a < c.1) → Memory.read l a = unlistedByte a := by
    intro l a hl
    induction l with
    | nil => rfl
    | cons c rest ih =>
      obtain ⟨b, w⟩ := c
      have : a ≠ b := (hl (b, w) List.mem_cons_self).ne
      simp [Memory.read, this, ih fun c hc => hl c (List.mem_cons_of_mem _ hc)]
  induction m generalizing n with
  | nil =>
    cases n with
    | nil => rfl
    | cons c rest =>
      have := h c.1
      have hne := (hn.2 c List.mem_cons_self).2
      simp [Memory.read] at this
      exact absurd this.symm hne
  | cons c mrest ih =>
    obtain ⟨a, u⟩ := c
    have hm1 := List.pairwise_cons.mp hm.1
    cases n with
    | nil =>
      have := h a
      have hne := (hm.2 (a, u) List.mem_cons_self).2
      simp [Memory.read] at this
      exact absurd this hne
    | cons d nrest =>
      obtain ⟨b, w⟩ := d
      have hn1 := List.pairwise_cons.mp hn.1
      have hab : a = b := by
        rcases lt_trichotomy a b with hlt | heq | hgt
        · have h1 := h a
          have h2 := below ((b, w) :: nrest) a (by
            intro c hc
            rcases List.mem_cons.mp hc with rfl | hc
            · exact hlt
            · exact hlt.trans (hn1.1 c hc))
          rw [h2] at h1
          simp [Memory.read] at h1
          exact absurd h1 (hm.2 (a, u) List.mem_cons_self).2
        · exact heq
        · have h1 := h b
          have h2 := below ((a, u) :: mrest) b (by
            intro c hc
            rcases List.mem_cons.mp hc with rfl | hc
            · exact hgt
            · exact hgt.trans (hm1.1 c hc))
          rw [h2] at h1
          simp [Memory.read] at h1
          exact absurd h1.symm (hn.2 (b, w) List.mem_cons_self).2
      subst hab
      have huw : u = w := by simpa [Memory.read] using h a
      subst huw
      congr 1
      refine ih ⟨hm1.2, fun c hc => hm.2 c (List.mem_cons_of_mem _ hc)⟩
        ⟨hn1.2, fun c hc => hn.2 c (List.mem_cons_of_mem _ hc)⟩ fun x => ?_
      by_cases hx : x = a
      · subst hx
        rw [below mrest x fun c hc => hm1.1 c hc, below nrest x fun c hc => hn1.1 c hc]
      · simpa [Memory.read, hx] using h x

/-- Memory right after reset is in canonical form. -/
theorem State.reset_mem_wf : State.reset.mem.wf = true := by decide

/-! ### the range checks -/

/-- A range passes a check exactly when each of its addresses does (20_memory.md R71). -/
theorem firstFault_eq_none (check : Nat → Option FaultCode) (a n : Nat) :
    firstFault check a n = none ↔ ∀ k, k < n → check (a + k) = none := by
  induction n generalizing a with
  | zero => simp [firstFault]
  | succ n ih =>
    unfold firstFault
    cases hc : check a with
    | some f =>
      simp only [reduceCtorEq, false_iff]
      exact fun h => by simpa [hc] using h 0 (by omega)
    | none =>
      rw [ih]
      constructor
      · intro h k hk
        cases k with
        | zero => simpa using hc
        | succ k =>
          have := h k (by omega)
          rwa [Nat.add_assoc, Nat.add_comm 1 k] at this
      · intro h k hk
        have := h (k + 1) (by omega)
        rwa [Nat.add_assoc, Nat.add_comm 1 k]

/-- The reading range check: DATA_BOUNDS when the range is not empty and reaches beyond 0xFFF (40_display.md R112,
43_index_memory.md R186). -/
theorem firstFault_readFault (a n : Nat) :
    firstFault readFault a n = if 0 < n ∧ a + n - 1 > 0xFFF then some .dataBounds else none := by
  induction n generalizing a with
  | zero => simp [firstFault]
  | succ n ih =>
    by_cases ha : a > 0xFFF
    · have hc : readFault a = some .dataBounds := by simp [readFault, ha]
      simp only [firstFault, hc]
      rw [if_pos (by omega)]
    · have hc : readFault a = none := by simp [readFault, ha]
      simp only [firstFault, hc, ih]
      split <;> split <;> first | rfl | omega

/-- The storing range check, for a range too short to reach from the reserved area beyond 0xFFF: DATA_BOUNDS, then
RESERVED_WRITE (43_index_memory.md R184, R185). -/
theorem firstFault_writeFault (a n : Nat) (hn : 0 < n) (hs : n ≤ 16) :
    firstFault writeFault a n =
      if a + n - 1 > 0xFFF then some .dataBounds else if a < 0x200 then some .reservedWrite else none := by
  obtain ⟨n, rfl⟩ : ∃ k, n = k + 1 := ⟨n - 1, by omega⟩
  have high : ∀ (n a : Nat), 0x200 ≤ a →
      firstFault writeFault a n = if 0 < n ∧ a + n - 1 > 0xFFF then some .dataBounds else none := by
    intro n
    induction n with
    | zero => simp [firstFault]
    | succ n ih =>
      intro a ha
      by_cases hb : a > 0xFFF
      · have hc : writeFault a = some .dataBounds := by simp [writeFault, hb]
        simp only [firstFault, hc]
        rw [if_pos (by omega)]
      · have hc : writeFault a = none := by
          unfold writeFault
          rw [if_neg hb, if_neg (by simp only [Config.progBase]; omega)]
        simp only [firstFault, hc, ih (a + 1) (by omega)]
        split <;> split <;> first | rfl | omega
  by_cases ha : 0x200 ≤ a
  · rw [high _ a ha]
    have : ¬ a < 0x200 := by omega
    simp [this]
  · have hc : writeFault a = some .reservedWrite := by
      unfold writeFault
      rw [if_neg (by omega), if_pos (by simp only [Config.progBase]; omega)]
    simp only [firstFault, hc]
    rw [if_neg (by omega), if_pos (by omega)]

/-- What DXYN and FX65 check before they read (40_display.md R112, R115; 43_index_memory.md R186). -/
theorem State.loadRangeFault_eq (s : State) (n : Nat) :
    s.loadRangeFault n = if 0 < n ∧ s.i.toNat + n - 1 > 0xFFF then some .dataBounds else none :=
  firstFault_readFault _ n

/-- What FX33 and FX55 check before they store (43_index_memory.md R184, R185). -/
theorem State.storeRangeFault_eq (s : State) (n : Nat) (hn : 0 < n) (hs : n ≤ 16) :
    s.storeRangeFault n =
      if s.i.toNat + n - 1 > 0xFFF then some .dataBounds
      else if s.i.toNat < 0x200 then some .reservedWrite else none :=
  firstFault_writeFault _ n hn hs

/-! ### storing a run of bytes -/

/-- Storing bytes changes memory alone. -/
theorem State.writeBytes_eq (s : State) (a : Nat) (us : List Byte) :
    s.writeBytes a us = { s with mem := (s.writeBytes a us).mem } := by
  induction us generalizing s a with
  | nil => rfl
  | cons u us ih => rw [State.writeBytes, ih]; rfl

@[simp] theorem State.writeBytes_v (s : State) (a : Nat) (us : List Byte) : (s.writeBytes a us).v = s.v := by
  rw [State.writeBytes_eq]
@[simp] theorem State.writeBytes_i (s : State) (a : Nat) (us : List Byte) : (s.writeBytes a us).i = s.i := by
  rw [State.writeBytes_eq]
@[simp] theorem State.writeBytes_pc (s : State) (a : Nat) (us : List Byte) : (s.writeBytes a us).pc = s.pc := by
  rw [State.writeBytes_eq]
@[simp] theorem State.writeBytes_stack (s : State) (a : Nat) (us : List Byte) : (s.writeBytes a us).stack = s.stack := by
  rw [State.writeBytes_eq]
@[simp] theorem State.writeBytes_sp (s : State) (a : Nat) (us : List Byte) : (s.writeBytes a us).sp = s.sp := by
  rw [State.writeBytes_eq]
@[simp] theorem State.writeBytes_dt (s : State) (a : Nat) (us : List Byte) : (s.writeBytes a us).dt = s.dt := by
  rw [State.writeBytes_eq]
@[simp] theorem State.writeBytes_st (s : State) (a : Nat) (us : List Byte) : (s.writeBytes a us).st = s.st := by
  rw [State.writeBytes_eq]
@[simp] theorem State.writeBytes_fb (s : State) (a : Nat) (us : List Byte) : (s.writeBytes a us).fb = s.fb := by
  rw [State.writeBytes_eq]
@[simp] theorem State.writeBytes_key (s : State) (a : Nat) (us : List Byte) : (s.writeBytes a us).key = s.key := by
  rw [State.writeBytes_eq]
@[simp] theorem State.writeBytes_dirty (s : State) (a : Nat) (us : List Byte) : (s.writeBytes a us).dirty = s.dirty := by
  rw [State.writeBytes_eq]
@[simp] theorem State.writeBytes_faultCode (s : State) (a : Nat) (us : List Byte) : (s.writeBytes a us).faultCode = s.faultCode := by
  rw [State.writeBytes_eq]
@[simp] theorem State.writeBytes_faultPc (s : State) (a : Nat) (us : List Byte) : (s.writeBytes a us).faultPc = s.faultPc := by
  rw [State.writeBytes_eq]
@[simp] theorem State.writeBytes_faultInfo (s : State) (a : Nat) (us : List Byte) : (s.writeBytes a us).faultInfo = s.faultInfo := by
  rw [State.writeBytes_eq]
@[simp] theorem State.writeBytes_rndCount (s : State) (a : Nat) (us : List Byte) : (s.writeBytes a us).rndCount = s.rndCount := by
  rw [State.writeBytes_eq]

/-- What memory reads as after a run of bytes is stored at a: the bytes there, and as before elsewhere. -/
theorem State.readByte_writeBytes (s : State) (a b : Nat) (us : List Byte) :
    (s.writeBytes a us).readByte b =
      if a ≤ b ∧ b < a + us.length then us.getD (b - a) 0 else s.readByte b := by
  induction us generalizing s a with
  | nil => simp [State.writeBytes]
  | cons u us ih =>
    rw [State.writeBytes, ih, State.readByte_writeByte]
    by_cases hb : b = a
    · subst hb
      simp
    · by_cases h : a + 1 ≤ b ∧ b < a + 1 + us.length
      · have h2 : a ≤ b ∧ b < a + (u :: us).length := by simp only [List.length_cons]; omega
        obtain ⟨k, rfl⟩ : ∃ k, b = a + 1 + k := ⟨b - (a + 1), by omega⟩
        have h3 : a + 1 + k - a = k + 1 := by omega
        rw [if_pos h, if_pos h2, h3]
        simp
      · have h2 : ¬ (a ≤ b ∧ b < a + (u :: us).length) := by simp only [List.length_cons]; omega
        rw [if_neg h, if_neg h2, if_neg hb]

/-- Storing a run of bytes inside the address space keeps memory's canonical form. -/
theorem State.writeBytes_wf {s : State} (h : s.mem.wf = true) {a : Nat} {us : List Byte}
    (ha : a + us.length ≤ 0x1000) : (s.writeBytes a us).mem.wf = true := by
  induction us generalizing s a with
  | nil => exact h
  | cons u us ih =>
    simp only [List.length_cons] at ha
    rw [State.writeBytes]
    exact ih (Memory.wf_write h (by omega) u) (by omega)

end Sys2Proof.Machine
end

