-- ==== Sys2Proof/Laws/Operands.lean ====
section
/-! SUPPORT. The laws of the operand forms and of the register ranges: what FX65 loads, what FX55 and FX33 store, and which
key FX0A selects. -/

namespace Sys2Proof.Machine

open Sys2Proof

theorem regOf_toNat {k : Nat} (h : k < 16) : (regOf k).toNat = k := by
  simp [regOf, Nat.mod_eq_of_lt h]

theorem regOf_of_toNat (r : Reg) : regOf r.toNat = r := by
  simp [regOf]

theorem regOf_eq_iff {k : Nat} (h : k < 16) (r : Reg) : r = regOf k ↔ r.toNat = k := by
  constructor
  · rintro rfl
    exact regOf_toNat h
  · rintro rfl
    exact (regOf_of_toNat r).symm

/-! ### FX65 -/

/-- The first n loads of FX65's loop: V0 .. V(n-1) hold the bytes at I, I + 1, ...; nothing but registers changes. -/
theorem loadRegs_prefix (s : State) {n : Nat} (hn : n ≤ 16) :
    let t := (List.range n).foldl (fun t k => t.setReg (regOf k) (t.readByte (t.dataAddr k))) s
    t = { s with v := t.v } ∧
      ∀ r : Reg, t.reg r = if r.toNat < n then s.readByte (s.i.toNat + r.toNat) else s.reg r := by
  induction n with
  | zero => simp
  | succ n ih =>
    obtain ⟨h1, h2⟩ := ih (by omega)
    simp only [List.range_succ, List.foldl_append, List.foldl_cons, List.foldl_nil]
    generalize (List.range n).foldl (fun t k => t.setReg (regOf k) (t.readByte (t.dataAddr k))) s = t at h1 h2 ⊢
    refine ⟨by rw [h1]; rfl, fun r => ?_⟩
    have hread : t.readByte (t.dataAddr n) = s.readByte (s.i.toNat + n) := by rw [h1]; rfl
    rw [State.reg_setReg, h2, hread]
    simp only [regOf_eq_iff (show n < 16 by omega)]
    by_cases hr : r.toNat = n
    · simp [hr]
    · simp only [hr, if_false]
      split <;> split <;> first | rfl | omega

/-- FX65 changes registers alone (43_index_memory.md R180, R186). -/
theorem State.loadRegs_eq (s : State) (x : Reg) : s.loadRegs x = { s with v := (s.loadRegs x).v } :=
  (loadRegs_prefix s (n := x.toNat + 1) (by have := x.isLt; omega)).1

@[simp] theorem State.loadRegs_mem (s : State) (x : Reg) : (s.loadRegs x).mem = s.mem := by
  rw [State.loadRegs_eq]
@[simp] theorem State.loadRegs_i (s : State) (x : Reg) : (s.loadRegs x).i = s.i := by
  rw [State.loadRegs_eq]
@[simp] theorem State.loadRegs_pc (s : State) (x : Reg) : (s.loadRegs x).pc = s.pc := by
  rw [State.loadRegs_eq]
@[simp] theorem State.loadRegs_stack (s : State) (x : Reg) : (s.loadRegs x).stack = s.stack := by
  rw [State.loadRegs_eq]
@[simp] theorem State.loadRegs_sp (s : State) (x : Reg) : (s.loadRegs x).sp = s.sp := by
  rw [State.loadRegs_eq]
@[simp] theorem State.loadRegs_dt (s : State) (x : Reg) : (s.loadRegs x).dt = s.dt := by
  rw [State.loadRegs_eq]
@[simp] theorem State.loadRegs_st (s : State) (x : Reg) : (s.loadRegs x).st = s.st := by
  rw [State.loadRegs_eq]
@[simp] theorem State.loadRegs_fb (s : State) (x : Reg) : (s.loadRegs x).fb = s.fb := by
  rw [State.loadRegs_eq]
@[simp] theorem State.loadRegs_key (s : State) (x : Reg) : (s.loadRegs x).key = s.key := by
  rw [State.loadRegs_eq]
@[simp] theorem State.loadRegs_dirty (s : State) (x : Reg) : (s.loadRegs x).dirty = s.dirty := by
  rw [State.loadRegs_eq]
@[simp] theorem State.loadRegs_faultCode (s : State) (x : Reg) : (s.loadRegs x).faultCode = s.faultCode := by
  rw [State.loadRegs_eq]
@[simp] theorem State.loadRegs_faultPc (s : State) (x : Reg) : (s.loadRegs x).faultPc = s.faultPc := by
  rw [State.loadRegs_eq]
@[simp] theorem State.loadRegs_faultInfo (s : State) (x : Reg) : (s.loadRegs x).faultInfo = s.faultInfo := by
  rw [State.loadRegs_eq]
@[simp] theorem State.loadRegs_rndCount (s : State) (x : Reg) : (s.loadRegs x).rndCount = s.rndCount := by
  rw [State.loadRegs_eq]

/-- FX65 loads V0..VX from I, I + 1, ..., and leaves the other registers (43_index_memory.md R186). -/
theorem State.reg_loadRegs (s : State) (x r : Reg) :
    (s.loadRegs x).reg r = if r.toNat ≤ x.toNat then s.readByte (s.i.toNat + r.toNat) else s.reg r := by
  have h := (loadRegs_prefix s (n := x.toNat + 1) (by have := x.isLt; omega)).2 r
  rw [State.loadRegs, h]
  simp

/-! ### FX55 and FX33 -/

theorem State.length_regsUpTo (s : State) (x : Reg) : (s.regsUpTo x).length = x.toNat + 1 := by
  simp [State.regsUpTo]

/-- The k-th byte FX55 stores is Vk (43_index_memory.md R185). -/
theorem State.regsUpTo_getD (s : State) (x : Reg) {k : Nat} (hk : k ≤ x.toNat) :
    (s.regsUpTo x).getD k 0 = s.reg (regOf k) := by
  simp [State.regsUpTo, List.getD, List.getElem?_map, List.getElem?_range (show k < x.toNat + 1 by omega)]

/-- Memory after FX55's stores: Vk at I + k for k ≤ X, and as before elsewhere (43_index_memory.md R185). -/
theorem State.readByte_storeRegs (s : State) (x : Reg) (b : Nat) :
    (s.writeBytes s.i.toNat (s.regsUpTo x)).readByte b =
      if s.i.toNat ≤ b ∧ b ≤ s.i.toNat + x.toNat then s.reg (regOf (b - s.i.toNat)) else s.readByte b := by
  rw [State.readByte_writeBytes, State.length_regsUpTo]
  by_cases h : s.i.toNat ≤ b ∧ b ≤ s.i.toNat + x.toNat
  · rw [if_pos h, if_pos (by omega), State.regsUpTo_getD s x (by omega)]
  · rw [if_neg h, if_neg (by omega)]

/-- Memory after FX33's stores: the three digits at I, I + 1, I + 2, and as before elsewhere (43_index_memory.md R184). -/
theorem State.readByte_storeDigits (s : State) (u : Byte) (b : Nat) :
    (s.writeBytes s.i.toNat (bcdDigits u)).readByte b =
      if b = s.i.toNat then BitVec.ofNat 8 (u.toNat / 100)
      else if b = s.i.toNat + 1 then BitVec.ofNat 8 (u.toNat / 10 % 10)
      else if b = s.i.toNat + 2 then BitVec.ofNat 8 (u.toNat % 10)
      else s.readByte b := by
  rw [State.readByte_writeBytes]
  by_cases h0 : b = s.i.toNat
  · subst h0; simp [bcdDigits]
  by_cases h1 : b = s.i.toNat + 1
  · subst h1; simp [bcdDigits]
  by_cases h2 : b = s.i.toNat + 2
  · subst h2; simp [bcdDigits]
  · have : ¬ (s.i.toNat ≤ b ∧ b < s.i.toNat + (bcdDigits u).length) := by simp [bcdDigits]; omega
    rw [if_neg this, if_neg h0, if_neg h1, if_neg h2]

/-! ### FX0A -/

/-- The key FX0A selects is the lowest-numbered pressed key (44_keypad_timers.md R204, R207). -/
theorem State.selectKey_eq_some (s : State) (k : Reg) :
    s.selectKey = some k ↔ s.keyDown k = true ∧ ∀ j : Reg, j.toNat < k.toNat → s.keyDown j = false := by
  rw [State.selectKey, List.find?_eq_some_iff_getElem]
  constructor
  · rintro ⟨hk, n, hn, he, hlow⟩
    refine ⟨hk, fun j hj => ?_⟩
    have hn16 : n < 16 := by simpa using hn
    have hkn : k.toNat = n := by
      rw [← he]; simp [regOf_toNat hn16]
    have := hlow j.toNat (by omega)
    simpa [regOf_of_toNat] using this
  · rintro ⟨hk, hlow⟩
    refine ⟨hk, k.toNat, by simpa using k.isLt, by simp [regOf_of_toNat], fun j hj => ?_⟩
    have hj16 : j < 16 := lt_trans hj k.isLt
    simpa using hlow (regOf j) (by rw [regOf_toNat hj16]; exact hj)

/-- FX0A waits exactly when no key is pressed (44_keypad_timers.md R204). -/
theorem State.selectKey_eq_none (s : State) : s.selectKey = none ↔ ∀ k : Reg, s.keyDown k = false := by
  rw [State.selectKey, List.find?_eq_none]
  constructor
  · intro h k
    have := h k (List.mem_map.mpr ⟨k.toNat, by simpa using k.isLt, regOf_of_toNat k⟩)
    simpa using this
  · intro h k _
    simp [h k]

/-- A register value is a key number exactly when it is at most 15, and then that number (44_keypad_timers.md R201). -/
theorem keyNumber?_eq_some (u : Byte) (k : Reg) : keyNumber? u = some k ↔ u.toNat = k.toNat := by
  unfold keyNumber?
  have hk := k.isLt
  split
  · simp only [reduceCtorEq, false_iff]; omega
  · rename_i h
    rw [Option.some_inj, ← BitVec.toNat_inj, BitVec.toNat_setWidth]
    omega

/-- A register value is no key number exactly when it is above 15 (44_keypad_timers.md R201). -/
theorem keyNumber?_eq_none (u : Byte) : keyNumber? u = none ↔ u.toNat > 0xF := by
  simp [keyNumber?]

/-! ### numbers -/

/-- FX29's address, exactly: it never exceeds 16 bits (43_index_memory.md R183). -/
theorem glyphAddr_toNat (u : Byte) : (glyphAddr u).toNat = 0x050 + 5 * u.toNat := by
  have := u.isLt
  simp only [glyphAddr, Config.fontBase, BitVec.toNat_ofNat]
  omega

@[simp] theorem zextByte_toNat (u : Byte) : (zextByte u).toNat = u.toNat := by
  have := u.isLt
  simp only [zextByte, BitVec.toNat_setWidth]
  omega

@[simp] theorem zextAddr_toNat (nnn : Addr) : (zextAddr nnn).toNat = nnn.toNat := by
  have := nnn.isLt
  simp only [zextAddr, BitVec.toNat_setWidth]
  omega

/-- The tick of one timer, as a number: down by one, stopping at 0 (60_exceptions.md R228). -/
theorem tickTimer_toNat (t : Byte) : (tickTimer t).toNat = t.toNat - 1 := by
  unfold tickTimer
  split
  · rename_i h
    have hp : 0 < t.toNat := h
    have := t.isLt
    rw [BitVec.toNat_sub]
    simp
    omega
  · rename_i h
    have : ¬ 0 < t.toNat := h
    omega

end Sys2Proof.Machine
end

