-- ==== Sys2Proof/Laws/Draw.lean ====
section
/-! SUPPORT. What DXYN's loops do, said once: every pixel is exclusive-ored with the sprite, clipped to the grid, and the
collision is whether a lit pixel met a set sprite bit (40_display.md R112 to R114). -/

namespace Sys2Proof.Machine

open Sys2Proof

/-- The first n columns of a sprite row. -/
theorem drawRow_prefix (x0 py : Nat) (b : Byte) (d : State × Bool) (n : Nat) :
    let e := (List.range n).foldl (fun e c => if spriteBit b c then drawPixel (x0 + c) py e else e) d
    e.1 = { d.1 with fb := e.1.fb } ∧
    (∀ p q, p < 64 → q < 32 →
      e.1.pixel p q = (d.1.pixel p q ^^ (decide (q = py ∧ x0 ≤ p ∧ p < x0 + n) && spriteBit b (p - x0)))) ∧
    (e.2 = true ↔ d.2 = true ∨ ∃ c, c < n ∧ spriteBit b c = true ∧ d.1.pixel (x0 + c) py = true) := by
  induction n with
  | zero =>
    refine ⟨rfl, fun p q _ _ => ?_, by simp⟩
    have : ¬ (q = py ∧ x0 ≤ p ∧ p < x0 + 0) := by omega
    rw [decide_eq_false this]
    simp
  | succ n ih =>
    obtain ⟨h1, h2, h3⟩ := ih
    simp only [List.range_succ, List.foldl_append, List.foldl_cons, List.foldl_nil]
    generalize (List.range n).foldl (fun e c => if spriteBit b c then drawPixel (x0 + c) py e else e) d = e at h1 h2 h3 ⊢
    have hold : ∀ p q, p < 64 → q < 32 → ¬ (p = x0 + n ∧ q = py) →
        e.1.pixel p q = (d.1.pixel p q ^^ (decide (q = py ∧ x0 ≤ p ∧ p < x0 + (n + 1)) && spriteBit b (p - x0))) := by
      intro p q hp hq hne
      rw [h2 p q hp hq]
      have : (q = py ∧ x0 ≤ p ∧ p < x0 + (n + 1)) ↔ (q = py ∧ x0 ≤ p ∧ p < x0 + n) := by omega
      simp only [this]
    have hfresh : x0 + n < 64 → py < 32 → e.1.pixel (x0 + n) py = d.1.pixel (x0 + n) py := by
      intro hp hq
      rw [h2 _ _ hp hq]
      simp
    by_cases hb : spriteBit b n = true
    · rw [if_pos hb]
      unfold drawPixel
      by_cases hg : x0 + n < 64 ∧ py < 32
      · rw [if_pos hg]
        refine ⟨?_, fun p q hp hq => ?_, ?_⟩
        · show e.1.togglePixel (x0 + n) py = _
          conv_lhs => rw [h1]
          simp [State.togglePixel, hg]
        · show (e.1.togglePixel (x0 + n) py).pixel p q = _
          rw [State.pixel_togglePixel _ hg.1 hg.2]
          by_cases hpq : p = x0 + n ∧ q = py
          · obtain ⟨rfl, rfl⟩ := hpq
            rw [if_pos ⟨rfl, rfl⟩, hfresh hg.1 hg.2]
            simp [hb]
          · rw [if_neg hpq, hold p q hp hq hpq]
        · show (e.2 || e.1.pixel (x0 + n) py) = true ↔ _
          rw [Bool.or_eq_true, h3, hfresh hg.1 hg.2]
          constructor
          · rintro ((h | ⟨c, hc, h⟩) | h)
            · exact .inl h
            · exact .inr ⟨c, by omega, h⟩
            · exact .inr ⟨n, by omega, hb, h⟩
          · rintro (h | ⟨c, hc, h, hp⟩)
            · exact .inl (.inl h)
            · by_cases hcn : c = n
              · subst hcn; exact .inr hp
              · exact .inl (.inr ⟨c, by omega, h, hp⟩)
      · rw [if_neg hg]
        refine ⟨h1, fun p q hp hq => hold p q hp hq (by omega), ?_⟩
        rw [h3]
        constructor
        · rintro (h | ⟨c, hc, h⟩)
          · exact .inl h
          · exact .inr ⟨c, by omega, h⟩
        · rintro (h | ⟨c, hc, h, hp⟩)
          · exact .inl h
          · by_cases hcn : c = n
            · subst hcn; simp [State.pixel, hg] at hp
            · exact .inr ⟨c, by omega, h, hp⟩
    · rw [if_neg hb]
      refine ⟨h1, fun p q hp hq => ?_, ?_⟩
      · by_cases hpq : p = x0 + n ∧ q = py
        · obtain ⟨rfl, rfl⟩ := hpq
          rw [hfresh hp hq]
          simp [hb]
        · exact hold p q hp hq hpq
      · rw [h3]
        constructor
        · rintro (h | ⟨c, hc, h⟩)
          · exact .inl h
          · exact .inr ⟨c, by omega, h⟩
        · rintro (h | ⟨c, hc, h, hp⟩)
          · exact .inl h
          · by_cases hcn : c = n
            · subst hcn; exact absurd h hb
            · exact .inr ⟨c, by omega, h, hp⟩

/-- One sprite row changes the frame buffer alone. -/
theorem drawRow_state (x0 py : Nat) (b : Byte) (d : State × Bool) :
    (drawRow x0 py b d).1 = { d.1 with fb := (drawRow x0 py b d).1.fb } :=
  (drawRow_prefix x0 py b d 8).1

/-- The pixels after one sprite row. -/
theorem drawRow_pixel (x0 py : Nat) (b : Byte) (d : State × Bool) {p q : Nat} (hp : p < 64) (hq : q < 32) :
    (drawRow x0 py b d).1.pixel p q =
      (d.1.pixel p q ^^ (decide (q = py ∧ x0 ≤ p ∧ p < x0 + 8) && spriteBit b (p - x0))) :=
  (drawRow_prefix x0 py b d 8).2.1 p q hp hq

/-- The collision after one sprite row. -/
theorem drawRow_collision (x0 py : Nat) (b : Byte) (d : State × Bool) :
    (drawRow x0 py b d).2 = true ↔
      d.2 = true ∨ ∃ c, c < 8 ∧ spriteBit b c = true ∧ d.1.pixel (x0 + c) py = true :=
  (drawRow_prefix x0 py b d 8).2.2

/-- DXYN's rows: only the frame buffer changes, every pixel on the grid is exclusive-ored with the sprite, and the collision
is whether some lit pixel met a set sprite bit. -/
theorem drawRows_spec (s : State) (x0 y0 n : Nat) :
    (drawRows x0 y0 n (s, false)).1 = { s with fb := (drawRows x0 y0 n (s, false)).1.fb } ∧
    (∀ p q, p < 64 → q < 32 →
      (drawRows x0 y0 n (s, false)).1.pixel p q = (s.pixel p q ^^ spriteLit s x0 y0 n p q)) ∧
    ((drawRows x0 y0 n (s, false)).2 = true ↔
      ∃ p q, s.pixel p q = true ∧ spriteLit s x0 y0 n p q = true) := by
  induction n with
  | zero =>
    refine ⟨rfl, fun p q _ _ => ?_, ?_⟩
    · have : ¬ (x0 ≤ p ∧ p < x0 + 8 ∧ y0 ≤ q ∧ q < y0 + 0) := by omega
      rw [spriteLit, decide_eq_false this]
      simp [drawRows]
    · simp only [drawRows, List.range_zero, List.foldl_nil, Bool.false_eq_true, false_iff]
      rintro ⟨p, q, -, h⟩
      have : ¬ (x0 ≤ p ∧ p < x0 + 8 ∧ y0 ≤ q ∧ q < y0 + 0) := by omega
      rw [spriteLit, decide_eq_false this] at h
      simp at h
  | succ n ih =>
    obtain ⟨h1, h2, h3⟩ := ih
    have hstep : drawRows x0 y0 (n + 1) (s, false) =
        drawRow x0 (y0 + n) (s.readByte (s.i.toNat + n)) (drawRows x0 y0 n (s, false)) := by
      have hr : (drawRows x0 y0 n (s, false)).1.readByte ((drawRows x0 y0 n (s, false)).1.dataAddr n) =
          s.readByte (s.i.toNat + n) := by rw [h1]; rfl
      rw [← hr]
      simp [drawRows, List.range_succ]
    rw [hstep]
    generalize drawRows x0 y0 n (s, false) = d at h1 h2 h3 ⊢
    have hlit : ∀ p q, spriteLit s x0 y0 (n + 1) p q =
        (spriteLit s x0 y0 n p q ||
          (decide (q = y0 + n ∧ x0 ≤ p ∧ p < x0 + 8) && spriteBit (s.readByte (s.i.toNat + n)) (p - x0))) := by
      intro p q
      unfold spriteLit spriteBit
      by_cases hq : q = y0 + n
      · subst hq
        have e : y0 + n - y0 = n := by omega
        rw [e]
        by_cases hp : x0 ≤ p ∧ p < x0 + 8 <;> simp [hp]
      · have a : (x0 ≤ p ∧ p < x0 + 8 ∧ y0 ≤ q ∧ q < y0 + (n + 1)) ↔
            (x0 ≤ p ∧ p < x0 + 8 ∧ y0 ≤ q ∧ q < y0 + n) := by omega
        simp [a, hq]
    have hdisj : ∀ p q, q = y0 + n → spriteLit s x0 y0 n p q = false := by
      intro p q hq
      have : ¬ (x0 ≤ p ∧ p < x0 + 8 ∧ y0 ≤ q ∧ q < y0 + n) := by omega
      simp [spriteLit, this]
    refine ⟨?_, fun p q hp hq => ?_, ?_⟩
    · conv_lhs => rw [drawRow_state]
      rw [h1]
    · rw [drawRow_pixel _ _ _ _ hp hq, h2 p q hp hq, hlit]
      by_cases hqn : q = y0 + n
      · rw [hdisj p q hqn]; simp
      · simp [hqn]
    · rw [drawRow_collision, h3]
      have hpix : ∀ p, d.1.pixel p (y0 + n) = s.pixel p (y0 + n) := by
        intro p
        by_cases hg : p < 64 ∧ y0 + n < 32
        · rw [h2 _ _ hg.1 hg.2, hdisj _ _ rfl]; simp
        · simp [State.pixel, hg]
      constructor
      · rintro (⟨p, q, hp, hq⟩ | ⟨c, hc, hb, hp⟩)
        · exact ⟨p, q, hp, by rw [hlit, hq]; simp⟩
        · refine ⟨x0 + c, y0 + n, by rw [← hpix]; exact hp, ?_⟩
          rw [hlit]
          have e : x0 + c - x0 = c := by omega
          simp [e, hb, hc]
      · rintro ⟨p, q, hp, hq⟩
        rw [hlit, Bool.or_eq_true, Bool.and_eq_true, decide_eq_true_eq] at hq
        rcases hq with hq | ⟨⟨rfl, hx, hx8⟩, hb⟩
        · exact .inl ⟨p, q, hp, hq⟩
        · refine .inr ⟨p - x0, by omega, hb, ?_⟩
          rw [show x0 + (p - x0) = p by omega, hpix]
          exact hp

@[simp] theorem drawRows_mem (s : State) (x0 y0 n : Nat) : (drawRows x0 y0 n (s, false)).1.mem = s.mem := by
  rw [(drawRows_spec s x0 y0 n).1]
@[simp] theorem drawRows_v (s : State) (x0 y0 n : Nat) : (drawRows x0 y0 n (s, false)).1.v = s.v := by
  rw [(drawRows_spec s x0 y0 n).1]
@[simp] theorem drawRows_i (s : State) (x0 y0 n : Nat) : (drawRows x0 y0 n (s, false)).1.i = s.i := by
  rw [(drawRows_spec s x0 y0 n).1]
@[simp] theorem drawRows_pc (s : State) (x0 y0 n : Nat) : (drawRows x0 y0 n (s, false)).1.pc = s.pc := by
  rw [(drawRows_spec s x0 y0 n).1]
@[simp] theorem drawRows_stack (s : State) (x0 y0 n : Nat) : (drawRows x0 y0 n (s, false)).1.stack = s.stack := by
  rw [(drawRows_spec s x0 y0 n).1]
@[simp] theorem drawRows_sp (s : State) (x0 y0 n : Nat) : (drawRows x0 y0 n (s, false)).1.sp = s.sp := by
  rw [(drawRows_spec s x0 y0 n).1]
@[simp] theorem drawRows_dt (s : State) (x0 y0 n : Nat) : (drawRows x0 y0 n (s, false)).1.dt = s.dt := by
  rw [(drawRows_spec s x0 y0 n).1]
@[simp] theorem drawRows_st (s : State) (x0 y0 n : Nat) : (drawRows x0 y0 n (s, false)).1.st = s.st := by
  rw [(drawRows_spec s x0 y0 n).1]
@[simp] theorem drawRows_key (s : State) (x0 y0 n : Nat) : (drawRows x0 y0 n (s, false)).1.key = s.key := by
  rw [(drawRows_spec s x0 y0 n).1]
@[simp] theorem drawRows_dirty (s : State) (x0 y0 n : Nat) : (drawRows x0 y0 n (s, false)).1.dirty = s.dirty := by
  rw [(drawRows_spec s x0 y0 n).1]
@[simp] theorem drawRows_faultCode (s : State) (x0 y0 n : Nat) : (drawRows x0 y0 n (s, false)).1.faultCode = s.faultCode := by
  rw [(drawRows_spec s x0 y0 n).1]
@[simp] theorem drawRows_faultPc (s : State) (x0 y0 n : Nat) : (drawRows x0 y0 n (s, false)).1.faultPc = s.faultPc := by
  rw [(drawRows_spec s x0 y0 n).1]
@[simp] theorem drawRows_faultInfo (s : State) (x0 y0 n : Nat) : (drawRows x0 y0 n (s, false)).1.faultInfo = s.faultInfo := by
  rw [(drawRows_spec s x0 y0 n).1]
@[simp] theorem drawRows_rndCount (s : State) (x0 y0 n : Nat) : (drawRows x0 y0 n (s, false)).1.rndCount = s.rndCount := by
  rw [(drawRows_spec s x0 y0 n).1]

/-! ### drawing and the general registers -/

theorem State.togglePixel_setReg (s : State) (r : Reg) (u : Byte) (x y : Nat) :
    (s.setReg r u).togglePixel x y = (s.togglePixel x y).setReg r u := by
  unfold State.togglePixel
  split <;> rfl

/-- A fold commutes with a map of its state when every step of it does. -/
theorem foldl_map_state {α β : Type} (f : β → α → β) (g : β → β) (hg : ∀ b a, f (g b) a = g (f b a)) (l : List α)
    (b : β) : l.foldl f (g b) = g (l.foldl f b) := by
  induction l generalizing b with
  | nil => rfl
  | cons a l ih => simp only [List.foldl_cons, hg, ih]

/-- Drawing neither reads nor writes a general register: DXYN's are its origin before and its flag after (40_display.md
R112). -/
theorem drawRows_setReg (s : State) (r : Reg) (u : Byte) (x0 y0 n : Nat) (c : Bool) :
    drawRows x0 y0 n (s.setReg r u, c) = ((drawRows x0 y0 n (s, c)).1.setReg r u, (drawRows x0 y0 n (s, c)).2) := by
  have hp : ∀ px py (d : State × Bool), drawPixel px py (d.1.setReg r u, d.2) =
      ((drawPixel px py d).1.setReg r u, (drawPixel px py d).2) := by
    intro px py d
    unfold drawPixel
    split <;> simp [State.togglePixel_setReg]
  have hr : ∀ py b (d : State × Bool), drawRow x0 py b (d.1.setReg r u, d.2) =
      ((drawRow x0 py b d).1.setReg r u, (drawRow x0 py b d).2) := by
    intro py b d
    refine foldl_map_state _ (fun e : State × Bool => (e.1.setReg r u, e.2)) (fun e k => ?_) _ d
    split
    · exact hp _ _ _
    · rfl
  exact foldl_map_state _ (fun e : State × Bool => (e.1.setReg r u, e.2)) (fun e k => hr _ _ _) _ (s, c)

end Sys2Proof.Machine
end

