-- ==== Sys2Proof/Laws/PerInstr.lean ====
section
/-! SUPPORT. The per-instruction family of LAWS.json: every instruction is encoded inside its own row of the opcode table
(30_encoding.md R90), whatever its operands. -/

namespace Sys2Proof.Laws.EncodingRow

open Sys2Proof

/-- The row of the opcode table that bears the instruction's pattern matches the instruction's word. -/
def Statement (i : Instr) : Prop :=
  ∃ r, r ∈ opcodeTable ∧ r.pattern = i.pattern ∧ r.matchesWord (encode i) = true

/-- Masking an encoding bit by bit. -/
theorem of_mask {i : Instr} (r : OpcodeRow) (hr : r ∈ opcodeTable) (hp : r.pattern = i.pattern)
    (h : encode i &&& r.mask = r.bits) : Statement i :=
  ⟨r, hr, hp, by simp [OpcodeRow.matchesWord, h]⟩

theorem cls : Statement .cls :=
  of_mask ⟨"00E0", 0x00E0, 0xFFFF⟩ (by decide) rfl <| by decide

theorem ret : Statement .ret :=
  of_mask ⟨"00EE", 0x00EE, 0xFFFF⟩ (by decide) rfl <| by decide

theorem jp (nnn : Addr) : Statement (.jp nnn) :=
  of_mask ⟨"1NNN", 0x1000, 0xF000⟩ (by decide) rfl <| by
    ext j hj
    simp [encode, putNNN]
    interval_cases j <;> simp

theorem call (nnn : Addr) : Statement (.call nnn) :=
  of_mask ⟨"2NNN", 0x2000, 0xF000⟩ (by decide) rfl <| by
    ext j hj
    simp [encode, putNNN]
    interval_cases j <;> simp

theorem seImm (x : Reg) (nn : Byte) : Statement (.seImm x nn) :=
  of_mask ⟨"3XNN", 0x3000, 0xF000⟩ (by decide) rfl <| by
    ext j hj
    simp [encode, putX, putNN]
    interval_cases j <;> simp

theorem sneImm (x : Reg) (nn : Byte) : Statement (.sneImm x nn) :=
  of_mask ⟨"4XNN", 0x4000, 0xF000⟩ (by decide) rfl <| by
    ext j hj
    simp [encode, putX, putNN]
    interval_cases j <;> simp

theorem seReg (x : Reg) (y : Reg) : Statement (.seReg x y) :=
  of_mask ⟨"5XY0", 0x5000, 0xF00F⟩ (by decide) rfl <| by
    ext j hj
    simp [encode, putX, putY]
    interval_cases j <;> simp

theorem ldImm (x : Reg) (nn : Byte) : Statement (.ldImm x nn) :=
  of_mask ⟨"6XNN", 0x6000, 0xF000⟩ (by decide) rfl <| by
    ext j hj
    simp [encode, putX, putNN]
    interval_cases j <;> simp

theorem addImm (x : Reg) (nn : Byte) : Statement (.addImm x nn) :=
  of_mask ⟨"7XNN", 0x7000, 0xF000⟩ (by decide) rfl <| by
    ext j hj
    simp [encode, putX, putNN]
    interval_cases j <;> simp

theorem ldReg (x : Reg) (y : Reg) : Statement (.ldReg x y) :=
  of_mask ⟨"8XY0", 0x8000, 0xF00F⟩ (by decide) rfl <| by
    ext j hj
    simp [encode, putX, putY]
    interval_cases j <;> simp

theorem orReg (x : Reg) (y : Reg) : Statement (.orReg x y) :=
  of_mask ⟨"8XY1", 0x8001, 0xF00F⟩ (by decide) rfl <| by
    ext j hj
    simp [encode, putX, putY]
    interval_cases j <;> simp

theorem andReg (x : Reg) (y : Reg) : Statement (.andReg x y) :=
  of_mask ⟨"8XY2", 0x8002, 0xF00F⟩ (by decide) rfl <| by
    ext j hj
    simp [encode, putX, putY]
    interval_cases j <;> simp

theorem xorReg (x : Reg) (y : Reg) : Statement (.xorReg x y) :=
  of_mask ⟨"8XY3", 0x8003, 0xF00F⟩ (by decide) rfl <| by
    ext j hj
    simp [encode, putX, putY]
    interval_cases j <;> simp

theorem addReg (x : Reg) (y : Reg) : Statement (.addReg x y) :=
  of_mask ⟨"8XY4", 0x8004, 0xF00F⟩ (by decide) rfl <| by
    ext j hj
    simp [encode, putX, putY]
    interval_cases j <;> simp

theorem sub (x : Reg) (y : Reg) : Statement (.sub x y) :=
  of_mask ⟨"8XY5", 0x8005, 0xF00F⟩ (by decide) rfl <| by
    ext j hj
    simp [encode, putX, putY]
    interval_cases j <;> simp

theorem shr (x : Reg) (y : Reg) : Statement (.shr x y) :=
  of_mask ⟨"8XY6", 0x8006, 0xF00F⟩ (by decide) rfl <| by
    ext j hj
    simp [encode, putX, putY]
    interval_cases j <;> simp

theorem subn (x : Reg) (y : Reg) : Statement (.subn x y) :=
  of_mask ⟨"8XY7", 0x8007, 0xF00F⟩ (by decide) rfl <| by
    ext j hj
    simp [encode, putX, putY]
    interval_cases j <;> simp

theorem shl (x : Reg) (y : Reg) : Statement (.shl x y) :=
  of_mask ⟨"8XYE", 0x800E, 0xF00F⟩ (by decide) rfl <| by
    ext j hj
    simp [encode, putX, putY]
    interval_cases j <;> simp

theorem sneReg (x : Reg) (y : Reg) : Statement (.sneReg x y) :=
  of_mask ⟨"9XY0", 0x9000, 0xF00F⟩ (by decide) rfl <| by
    ext j hj
    simp [encode, putX, putY]
    interval_cases j <;> simp

theorem ldI (nnn : Addr) : Statement (.ldI nnn) :=
  of_mask ⟨"ANNN", 0xA000, 0xF000⟩ (by decide) rfl <| by
    ext j hj
    simp [encode, putNNN]
    interval_cases j <;> simp

theorem jpV0 (nnn : Addr) : Statement (.jpV0 nnn) :=
  of_mask ⟨"BNNN", 0xB000, 0xF000⟩ (by decide) rfl <| by
    ext j hj
    simp [encode, putNNN]
    interval_cases j <;> simp

theorem rnd (x : Reg) (nn : Byte) : Statement (.rnd x nn) :=
  of_mask ⟨"CXNN", 0xC000, 0xF000⟩ (by decide) rfl <| by
    ext j hj
    simp [encode, putX, putNN]
    interval_cases j <;> simp

theorem drw (x : Reg) (y : Reg) (n : Nibble) : Statement (.drw x y n) :=
  of_mask ⟨"DXYN", 0xD000, 0xF000⟩ (by decide) rfl <| by
    ext j hj
    simp [encode, putX, putY, putN]
    interval_cases j <;> simp

theorem skp (x : Reg) : Statement (.skp x) :=
  of_mask ⟨"EX9E", 0xE09E, 0xF0FF⟩ (by decide) rfl <| by
    ext j hj
    simp [encode, putX]
    interval_cases j <;> simp

theorem sknp (x : Reg) : Statement (.sknp x) :=
  of_mask ⟨"EXA1", 0xE0A1, 0xF0FF⟩ (by decide) rfl <| by
    ext j hj
    simp [encode, putX]
    interval_cases j <;> simp

theorem ldVxDt (x : Reg) : Statement (.ldVxDt x) :=
  of_mask ⟨"FX07", 0xF007, 0xF0FF⟩ (by decide) rfl <| by
    ext j hj
    simp [encode, putX]
    interval_cases j <;> simp

theorem ldVxK (x : Reg) : Statement (.ldVxK x) :=
  of_mask ⟨"FX0A", 0xF00A, 0xF0FF⟩ (by decide) rfl <| by
    ext j hj
    simp [encode, putX]
    interval_cases j <;> simp

theorem ldDtVx (x : Reg) : Statement (.ldDtVx x) :=
  of_mask ⟨"FX15", 0xF015, 0xF0FF⟩ (by decide) rfl <| by
    ext j hj
    simp [encode, putX]
    interval_cases j <;> simp

theorem ldStVx (x : Reg) : Statement (.ldStVx x) :=
  of_mask ⟨"FX18", 0xF018, 0xF0FF⟩ (by decide) rfl <| by
    ext j hj
    simp [encode, putX]
    interval_cases j <;> simp

theorem addIVx (x : Reg) : Statement (.addIVx x) :=
  of_mask ⟨"FX1E", 0xF01E, 0xF0FF⟩ (by decide) rfl <| by
    ext j hj
    simp [encode, putX]
    interval_cases j <;> simp

theorem ldFVx (x : Reg) : Statement (.ldFVx x) :=
  of_mask ⟨"FX29", 0xF029, 0xF0FF⟩ (by decide) rfl <| by
    ext j hj
    simp [encode, putX]
    interval_cases j <;> simp

theorem ldBVx (x : Reg) : Statement (.ldBVx x) :=
  of_mask ⟨"FX33", 0xF033, 0xF0FF⟩ (by decide) rfl <| by
    ext j hj
    simp [encode, putX]
    interval_cases j <;> simp

theorem ldMemVx (x : Reg) : Statement (.ldMemVx x) :=
  of_mask ⟨"FX55", 0xF055, 0xF0FF⟩ (by decide) rfl <| by
    ext j hj
    simp [encode, putX]
    interval_cases j <;> simp

theorem ldVxMem (x : Reg) : Statement (.ldVxMem x) :=
  of_mask ⟨"FX65", 0xF065, 0xF0FF⟩ (by decide) rfl <| by
    ext j hj
    simp [encode, putX]
    interval_cases j <;> simp

end Sys2Proof.Laws.EncodingRow
end

