-- ==== Sys2Proof/Laws/Step.lean ====
section
/-! SUPPORT. What a step can do, said once: the inversion lemmas of `exec`, `step` and the host's moves, which the provers
cite in place of unfolding them. -/

namespace Sys2Proof.Machine

open Sys2Proof

/-- An outcome that is a next state is one next state. -/
theorem next_inj {s t : State} (h : (Host.Outcome.next s : Result) = .next t) : s = t := by
  injection h

/-- The fields that no executed instruction writes: the key states and, unless a fault is raised, the fault status. -/
abbrev KeepsKeyAndFault (s t : State) : Prop :=
  t.key = s.key ∧ t.faultCode = s.faultCode ∧ t.faultPc = s.faultPc ∧ t.faultInfo = s.faultInfo

/-- An execution either takes a fault and changes nothing else, or leaves the fault status and the keys alone. -/
theorem exec_cases {i : Instr} {s t : State} (h : exec i s = .next t) :
    (∃ f info, f ≠ FaultCode.none ∧ t = s.raiseFault f info) ∨ KeepsKeyAndFault s t := by
  have hload : ∀ n f, s.loadRangeFault n = some f → f ≠ .none := by
    intro n f hf
    rw [State.loadRangeFault_eq] at hf
    split at hf
    · cases hf; decide
    · cases hf
  have hstore : ∀ n f, 0 < n → n ≤ 16 → s.storeRangeFault n = some f → f ≠ .none := by
    intro n f h0 h16 hf
    rw [State.storeRangeFault_eq s n h0 h16] at hf
    split at hf
    · cases hf; decide
    · split at hf
      · cases hf; decide
      · cases hf
  cases i with
  | ret =>
    simp only [exec, execRet] at h
    split at h <;> cases next_inj h
    · exact .inl ⟨_, _, by decide, rfl⟩
    · exact .inr ⟨rfl, rfl, rfl, rfl⟩
  | call nnn =>
    simp only [exec, execCall] at h
    split at h <;> cases next_inj h
    · exact .inr ⟨rfl, rfl, rfl, rfl⟩
    · exact .inl ⟨_, _, by decide, rfl⟩
  | drw x y n =>
    simp only [exec, execDrw] at h
    split at h <;> cases next_inj h
    · rename_i f hf
      exact .inl ⟨f, _, hload _ f hf, rfl⟩
    · exact .inr ⟨by simp, by simp, by simp, by simp⟩
  | skp x =>
    simp only [exec, execSkp] at h
    split at h <;> cases next_inj h
    · exact .inl ⟨_, _, by decide, rfl⟩
    · exact .inr ⟨rfl, rfl, rfl, rfl⟩
  | sknp x =>
    simp only [exec, execSknp] at h
    split at h <;> cases next_inj h
    · exact .inl ⟨_, _, by decide, rfl⟩
    · exact .inr ⟨rfl, rfl, rfl, rfl⟩
  | ldVxK x =>
    simp only [exec, execLdVxK] at h
    split at h <;> cases next_inj h
    · exact .inr ⟨rfl, rfl, rfl, rfl⟩
    · exact .inr ⟨rfl, rfl, rfl, rfl⟩
  | ldBVx x =>
    simp only [exec, execLdBVx] at h
    split at h <;> cases next_inj h
    · rename_i f hf
      exact .inl ⟨f, _, hstore 3 f (by omega) (by omega) hf, rfl⟩
    · exact .inr ⟨by simp, by simp, by simp, by simp⟩
  | ldMemVx x =>
    simp only [exec, execLdMemVx] at h
    split at h <;> cases next_inj h
    · rename_i f hf
      exact .inl ⟨f, _, hstore _ f (by omega) (by have := x.isLt; omega) hf, rfl⟩
    · exact .inr ⟨by simp, by simp, by simp, by simp⟩
  | ldVxMem x =>
    simp only [exec, execLdVxMem] at h
    split at h <;> cases next_inj h
    · rename_i f hf
      exact .inl ⟨f, _, hload _ f hf, rfl⟩
    · exact .inr ⟨by simp, by simp, by simp, by simp⟩
  | _ =>
    cases next_inj h
    exact .inr ⟨rfl, rfl, rfl, rfl⟩

/-- Memory after an execution: as before, or FX33's or FX55's bytes stored from I on, inside 0x200 .. 0xFFF (20_memory.md R67,
R68). -/
theorem exec_mem {i : Instr} {s t : State} (h : exec i s = .next t) :
    t.mem = s.mem ∨ ∃ us : List Byte, 0x200 ≤ s.i.toNat ∧ s.i.toNat + us.length ≤ 0x1000 ∧
      t.mem = (s.writeBytes s.i.toNat us).mem ∧ ∃ x, i = .ldBVx x ∨ i = .ldMemVx x := by
  have hstore : ∀ n, 0 < n → n ≤ 16 → s.storeRangeFault n = none → 0x200 ≤ s.i.toNat ∧ s.i.toNat + n - 1 ≤ 0xFFF := by
    intro n h0 h16 hn
    rw [State.storeRangeFault_eq s n h0 h16] at hn
    split at hn
    · cases hn
    · split at hn
      · cases hn
      · omega
  cases i with
  | ret =>
    simp only [exec, execRet] at h
    split at h <;> cases next_inj h <;> exact .inl rfl
  | call nnn =>
    simp only [exec, execCall] at h
    split at h <;> cases next_inj h <;> exact .inl rfl
  | drw x y n =>
    simp only [exec, execDrw] at h
    split at h <;> cases next_inj h
    · exact .inl rfl
    · exact .inl (by simp)
  | skp x =>
    simp only [exec, execSkp] at h
    split at h <;> cases next_inj h <;> exact .inl rfl
  | sknp x =>
    simp only [exec, execSknp] at h
    split at h <;> cases next_inj h <;> exact .inl rfl
  | ldVxK x =>
    simp only [exec, execLdVxK] at h
    split at h <;> cases next_inj h <;> exact .inl rfl
  | ldBVx x =>
    simp only [exec, execLdBVx] at h
    split at h <;> cases next_inj h
    · exact .inl rfl
    · rename_i hn
      have := hstore _ (by decide) (by decide) hn
      exact .inr ⟨_, this.1, by simp [bcdDigits]; omega, rfl, x, .inl rfl⟩
  | ldMemVx x =>
    have hx := x.isLt
    simp only [exec, execLdMemVx] at h
    split at h <;> cases next_inj h
    · exact .inl rfl
    · rename_i hn
      have := hstore _ (Nat.succ_pos _) (by omega) hn
      exact .inr ⟨_, this.1, by rw [State.length_regsUpTo]; omega, rfl, x, .inr rfl⟩
  | ldVxMem x =>
    simp only [exec, execLdVxMem] at h
    split at h <;> cases next_inj h
    · exact .inl rfl
    · exact .inl (by simp)
  | _ =>
    cases next_inj h
    exact .inl rfl

/-- A halted core's step (30_encoding.md R81). -/
theorem step_of_halted {s : State} (h : s.halted = true) : step s = .next s := by
  simp [step, h]

/-- A running core's step whose fetch or decode raises a fault (30_encoding.md R80, R82, R96). -/
theorem step_of_fetch_error {s : State} {f : FaultCode} {info : Word} (h : s.halted = false)
    (hf : s.fetchDecode = .error (f, info)) : step s = .next (s.raiseFault f info) := by
  simp [step, h, hf]

/-- A running core's step that executes an instruction (30_encoding.md R80). -/
theorem step_of_fetch_ok {s : State} {i : Instr} (h : s.halted = false) (hf : s.fetchDecode = .ok i) :
    step s = endOutcome (exec i s) := by
  simp [step, h, hf]

/-- What the fetch and decode of a step can answer (30_encoding.md R80, R82, R96). -/
theorem fetchDecode_cases (s : State) :
    (s.pc.toNat > 0xFFE ∧ s.fetchDecode = .error (.fetchBounds, s.pc)) ∨
    (s.pc.toNat ≤ 0xFFE ∧ (∃ e, decode s.fetchWord = .error e) ∧
      s.fetchDecode = .error (.illegalOpcode, s.fetchWord)) ∨
    (s.pc.toNat ≤ 0xFFE ∧ ∃ i, decode s.fetchWord = .ok i ∧ s.fetchDecode = .ok i) := by
  unfold State.fetchDecode
  by_cases hp : s.pc.toNat > 0xFFE
  · exact .inl ⟨hp, by rw [if_pos hp]⟩
  · rw [if_neg hp]
    cases hd : decode s.fetchWord with
    | ok i => exact .inr (.inr ⟨by omega, i, rfl, rfl⟩)
    | error e => exact .inr (.inl ⟨by omega, ⟨e, rfl⟩, rfl⟩)

/-- A fetchable word that decodes is what fetch and decode answer (30_encoding.md R80, R82, R84). -/
theorem fetchDecode_ok {s : State} {i : Instr} (hp : s.pc.toNat ≤ 0xFFE) (hd : decode s.fetchWord = .ok i) :
    s.fetchDecode = .ok i := by
  rw [State.fetchDecode, if_neg (by omega), hd]

/-- The word of two bytes as a number: the first is its high byte (20_memory.md R69). -/
theorem wordOfBytes_toNat (hi lo : Byte) : (wordOfBytes hi lo).toNat = hi.toNat * 256 + lo.toNat := by
  rw [wordOfBytes, BitVec.toNat_append, ← Nat.shiftLeft_add_eq_or_of_lt lo.isLt, Nat.shiftLeft_eq]

/-- Everything a step can do: nothing on a halted core; the fault of the fetch or of the decode; or an execution and the end
of the step. -/
theorem step_cases {s t : State} (h : step s = .next t) :
    (s.halted = true ∧ t = s) ∨
    (s.halted = false ∧ ∃ f info, s.fetchDecode = .error (f, info) ∧ t = s.raiseFault f info) ∨
    (s.halted = false ∧ ∃ i u, s.fetchDecode = .ok i ∧ exec i s = .next u ∧ t = u.endStep) := by
  cases hh : s.halted with
  | true =>
    rw [step_of_halted hh] at h
    exact .inl ⟨rfl, (next_inj h).symm⟩
  | false =>
    cases hf : s.fetchDecode with
    | error e =>
      obtain ⟨f, info⟩ := e
      rw [step_of_fetch_error hh hf] at h
      exact .inr (.inl ⟨rfl, f, info, rfl, (next_inj h).symm⟩)
    | ok i =>
      rw [step_of_fetch_ok hh hf] at h
      cases hx : exec i s with
      | next u =>
        rw [hx] at h
        exact .inr (.inr ⟨rfl, i, u, rfl, hx, (next_inj h).symm⟩)
      | fault r => exact nomatch r
      | refused r => rw [hx] at h; cases h

/-- The end of a step after an execution that raised no fault is the tick. -/
theorem endStep_of_running {u : State} (h : u.faultCode = .none) : u.endStep = u.tick := by
  simp [State.endStep, State.halted, h]

/-- The end of a step after an execution that raised a fault changes nothing. -/
theorem endStep_of_fault {u : State} (h : u.faultCode ≠ .none) : u.endStep = u := by
  simp [State.endStep, State.halted, h]

/-- The end of a step changes the timers alone. -/
theorem endStep_eq (u : State) : u.endStep = { u with dt := u.endStep.dt, st := u.endStep.st } := by
  unfold State.endStep
  split <;> rfl

end Sys2Proof.Machine
end

