-- ==== Sys2Proof/Tests/Slice0.lean ====
section
/-! SUPPORT. The model's own tests. Expected values are those of spec/95_test_vectors.md, named by vector, or are read off the
rule named. First decoding and the ill-formed words, then one step of each instruction, then for each statement that has
hypotheses a state and operands that meet them. -/

namespace Sys2Proof.Tests

open Sys2Proof Sys2Proof.Machine

/-- The core right after reset but for `f`, with the word w where it fetches. -/
def start (w : Nat) (f : State → State := id) : State := (f State.reset).withFetchWord 16 w

/-- Whether an outcome is a next state of which p holds. -/
def runs (r : Result) (p : State → Bool) : Bool :=
  match r with
  | .next t => p t
  | _ => false

/-- Whether a state shows this fault, taken at this pc with this information, and the pc still there. -/
def faultIs (t : State) (f : FaultCode) (pc info : Word) : Bool :=
  t.faultCode == f && t.faultPc == pc && t.faultInfo == info && t.pc == pc

/-! ### decoding: a word of every constructor, written out from the `Encoding` line of its rule -/

theorem test_decode_display : decode 0x00E0 = .ok .cls ∧ decode 0xD125 = .ok (.drw 1 2 5) := by decide

theorem test_decode_control :
    decode 0x00EE = .ok .ret ∧ decode 0x1ABC = .ok (.jp 0xABC) ∧ decode 0x2345 = .ok (.call 0x345) ∧
    decode 0x3C42 = .ok (.seImm 0xC 0x42) ∧ decode 0x4C42 = .ok (.sneImm 0xC 0x42) ∧
    decode 0x51A0 = .ok (.seReg 1 0xA) ∧ decode 0x91A0 = .ok (.sneReg 1 0xA) ∧
    decode 0xB7F1 = .ok (.jpV0 0x7F1) := by decide

theorem test_decode_alu :
    decode 0x6A2F = .ok (.ldImm 0xA 0x2F) ∧ decode 0x7F05 = .ok (.addImm 0xF 0x05) ∧
    decode 0x8AB0 = .ok (.ldReg 0xA 0xB) ∧ decode 0x8AB1 = .ok (.orReg 0xA 0xB) ∧
    decode 0x8AB2 = .ok (.andReg 0xA 0xB) ∧ decode 0x8AB3 = .ok (.xorReg 0xA 0xB) ∧
    decode 0x8AB4 = .ok (.addReg 0xA 0xB) ∧ decode 0x8AB5 = .ok (.sub 0xA 0xB) ∧
    decode 0x8AB6 = .ok (.shr 0xA 0xB) ∧ decode 0x8AB7 = .ok (.subn 0xA 0xB) ∧
    decode 0x8ABE = .ok (.shl 0xA 0xB) ∧ decode 0xC30F = .ok (.rnd 3 0x0F) := by decide

theorem test_decode_index :
    decode 0xA123 = .ok (.ldI 0x123) ∧ decode 0xF51E = .ok (.addIVx 5) ∧ decode 0xF329 = .ok (.ldFVx 3) ∧
    decode 0xF233 = .ok (.ldBVx 2) ∧ decode 0xFF55 = .ok (.ldMemVx 0xF) ∧ decode 0xF465 = .ok (.ldVxMem 4) := by decide

theorem test_decode_keypad :
    decode 0xE49E = .ok (.skp 4) ∧ decode 0xE4A1 = .ok (.sknp 4) ∧ decode 0xF307 = .ok (.ldVxDt 3) ∧
    decode 0xF50A = .ok (.ldVxK 5) ∧ decode 0xF115 = .ok (.ldDtVx 1) ∧ decode 0xF118 = .ok (.ldStVx 1) := by decide

/-- Bytes are taken high byte first, and what follows them is left (30_encoding.md R83). -/
theorem test_decode_bytes :
    decodeBytes [0x60, 0x07, 0xAA] = .ok (.ldImm 0 7, [0xAA]) ∧ decodeBytes [0x60] = .error .truncated ∧
    decodeTableWord 16 0x6007 = some (.ldImm 0 7) ∧ decodeTableWord 16 0x5121 = none := by decide

/-! ### ill-formed words, one or more per check of 30_encoding.md R96 (vectors E1 to E7) -/

/-- The table has no row for the word and the decoder rejects it by name. -/
def rejected (w : Word) : Bool := !WellFormedWord w && decide (decode w = .error (.illegal w))

theorem test_illegal_0 : rejected 0x0000 = true ∧ rejected 0x0123 = true := by decide
theorem test_illegal_5 : rejected 0x5121 = true := by decide
theorem test_illegal_8 :
    ([0x8008, 0x8009, 0x800A, 0x800B, 0x800C, 0x800D, 0x800F] : List Word).all rejected = true := by decide
theorem test_illegal_9 : rejected 0x9001 = true := by decide
theorem test_illegal_E :
    ([0xE000, 0xE19F, 0xE0A2] : List Word).all rejected = true := by decide
theorem test_illegal_F :
    ([0xF000, 0xF00B, 0xF030, 0xF075, 0xFFFF] : List Word).all rejected = true := by decide
theorem test_wellFormed_edges :
    ([0x00E0, 0x00EE, 0x5120, 0x800E, 0x9010, 0xE09E, 0xFF65] : List Word).all WellFormedWord = true := by decide

/-! ### one step of each instruction -/

/-- D1. -/
theorem test_cls : runs (step (start 0x00E0 (·.togglePixel 3 4))) fun t =>
    !t.pixel 3 4 && t.dirty && t.pc == 0x202 := by decide
/-- D8: a lit pixel that the sprite turns off. -/
theorem test_drw_collision :
    runs (step (start 0xD011 fun s => ((s.togglePixel 0 0).setI 0x300).writeByte 0x300 0x80)) fun t =>
      !t.pixel 0 0 && t.reg 0xF == 1 && t.dirty := by decide
/-- D7 and D4: the origin wraps on both axes, the body is clipped. -/
theorem test_drw_edges :
    runs (step (start 0xD012 fun s =>
      ((((s.setReg 0 0x7E).setReg 1 0x3F).setI 0x300).writeByte 0x300 0xFF).writeByte 0x301 0xFF)) fun t =>
      t.pixel 62 31 && t.pixel 63 31 && !t.pixel 0 31 && !t.pixel 62 0 && t.reg 0xF == 0 := by decide

/-- F1. -/
theorem test_ret : runs (step (start 0x00EE fun s =>
    (State.setPc { s with stack := s.stack.set 0 0x200, sp := 1 } 0x30E))) fun t =>
      t.sp == 0 && t.pc == 0x202 && t.stack[0] == 0x200 := by decide
/-- F3. -/
theorem test_jp : runs (step (start 0x1234)) fun t => t.pc == 0x234 := by decide
/-- F7. -/
theorem test_call : runs (step (start 0x2300 fun s => { s with sp := 15 })) fun t =>
    t.stack[15] == 0x200 && t.sp == 16 && t.pc == 0x300 := by decide
/-- F9, F10. -/
theorem test_seImm : runs (step (start 0x3342 (·.setReg 3 0x42))) (·.pc == 0x204) ∧
    runs (step (start 0x3341 (·.setReg 3 0x42))) (·.pc == 0x202) := by decide
/-- F11, F12. -/
theorem test_sneImm : runs (step (start 0x4341 (·.setReg 3 0x42))) (·.pc == 0x204) ∧
    runs (step (start 0x4342 (·.setReg 3 0x42))) (·.pc == 0x202) := by decide
/-- F13, F14. -/
theorem test_seReg : runs (step (start 0x5120 fun s => (s.setReg 1 7).setReg 2 7)) (·.pc == 0x204) ∧
    runs (step (start 0x5120 fun s => (s.setReg 1 7).setReg 2 8)) (·.pc == 0x202) := by decide
/-- F16, F17. -/
theorem test_sneReg : runs (step (start 0x9120 fun s => (s.setReg 1 7).setReg 2 8)) (·.pc == 0x204) ∧
    runs (step (start 0x9120 fun s => (s.setReg 1 7).setReg 2 7)) (·.pc == 0x202) := by decide
/-- F19 and F22: the sum is not reduced mod 4096, and only V0 is added. -/
theorem test_jpV0 : runs (step (start 0xBFFF (·.setReg 0 0xFF))) (·.pc == 0x10FE) ∧
    runs (step (start 0xB201 (·.setReg 5 3))) (·.pc == 0x201) := by decide

/-- A1. -/
theorem test_ldImm : runs (step (start 0x6A2F)) fun t => t.reg 0xA == 0x2F && t.pc == 0x202 := by decide
/-- A3. -/
theorem test_addImm : runs (step (start 0x7001 fun s => (s.setReg 0 0xFF).setReg 0xF 0x55)) fun t =>
    t.reg 0 == 0 && t.reg 0xF == 0x55 := by decide
/-- A6. -/
theorem test_ldReg : runs (step (start 0x8010 (·.setReg 1 0x99))) fun t => t.reg 0 == 0x99 := by decide
/-- A7. -/
theorem test_or : runs (step (start 0x8011 fun s => ((s.setReg 0 0xF0).setReg 1 0x0F).setReg 0xF 0x77)) fun t =>
    t.reg 0 == 0xFF && t.reg 0xF == 0x77 := by decide
/-- A8. -/
theorem test_and : runs (step (start 0x8012 fun s => (s.setReg 0 0xF0).setReg 1 0x3C)) fun t => t.reg 0 == 0x30 := by decide
/-- A9. -/
theorem test_xor : runs (step (start 0x8013 fun s => (s.setReg 0 0xFF).setReg 1 0x0F)) fun t => t.reg 0 == 0xF0 := by decide
/-- A13. -/
theorem test_addReg : runs (step (start 0x8014 fun s => (s.setReg 0 0xFF).setReg 1 1)) fun t =>
    t.reg 0 == 0 && t.reg 0xF == 1 := by decide
/-- A17: the carry wins over the sum in VF. -/
theorem test_addReg_vf : runs (step (start 0x8F14 fun s => (s.setReg 0xF 0xFF).setReg 1 1)) fun t =>
    t.reg 0xF == 1 := by decide
/-- A22 (90_conflicts.md C3): equal operands clear the flag. -/
theorem test_sub : runs (step (start 0x8015 fun s => (s.setReg 0 5).setReg 1 5)) fun t =>
    t.reg 0 == 0 && t.reg 0xF == 0 := by decide
/-- A24 and A25: the subtraction reads the flag just written. -/
theorem test_sub_vf : runs (step (start 0x8F15 fun s => (s.setReg 0xF 5).setReg 1 3)) (fun t => t.reg 0xF == 0xFE) ∧
    runs (step (start 0x80F5 fun s => (s.setReg 0 5).setReg 0xF 3)) (fun t => t.reg 0xF == 1 && t.reg 0 == 4) := by decide
/-- A30. -/
theorem test_shr : runs (step (start 0x8206 (·.setReg 2 0xFF))) fun t => t.reg 2 == 0x7F && t.reg 0xF == 1 := by decide
/-- A31. -/
theorem test_shr_vf : runs (step (start 0x8F06 (·.setReg 0xF 0xFF))) fun t => t.reg 0xF == 0 := by decide
/-- A33. -/
theorem test_subn : runs (step (start 0x8017 fun s => (s.setReg 0 5).setReg 1 3)) fun t =>
    t.reg 0 == 0xFE && t.reg 0xF == 0 := by decide
/-- A35. -/
theorem test_subn_vf : runs (step (start 0x8F17 fun s => (s.setReg 0xF 3).setReg 1 5)) fun t => t.reg 0xF == 4 := by decide
/-- A37. -/
theorem test_shl : runs (step (start 0x820E (·.setReg 2 0x81))) fun t => t.reg 2 == 0x02 && t.reg 0xF == 1 := by decide
/-- A40. -/
theorem test_shl_vf : runs (step (start 0x8F0E (·.setReg 0xF 0x80))) fun t => t.reg 0xF == 0x02 := by decide
/-- A43 and A44, for every random byte. -/
theorem test_rnd : (∃ t, step (start 0xC300) = .next t ∧ t.reg 3 = 0) ∧
    ∃ t, step (start 0xC3FF) = .next t ∧ t.reg 3 = Config.rnd (start 0xC3FF).rndCount := by
  refine ⟨⟨_, rfl, ?_⟩, ⟨_, rfl, ?_⟩⟩
  · exact BitVec.and_zero
  · exact BitVec.and_allOnes

/-- M1. -/
theorem test_ldI : runs (step (start 0xA123)) fun t => t.i == 0x123 && t.pc == 0x202 := by decide
/-- M3 and M5. -/
theorem test_addIVx : runs (step (start 0xF01E fun s => (s.setI 0x0FFF).setReg 0 1)) (·.i == 0x1000) ∧
    runs (step (start 0xF01E fun s => (s.setI 0xFFFF).setReg 0 1)) (·.i == 0x0000) := by decide
/-- M7 and M9: VX is not masked. -/
theorem test_ldFVx : runs (step (start 0xF029 (·.setReg 0 0x0F))) (·.i == 0x09B) ∧
    runs (step (start 0xF029 (·.setReg 0 0xFF))) (·.i == 0x54B) := by decide
/-- M10. -/
theorem test_ldBVx : runs (step (start 0xF233 fun s => (s.setI 0x300).setReg 2 156)) fun t =>
    t.readByte 0x300 == 1 && t.readByte 0x301 == 5 && t.readByte 0x302 == 6 && t.i == 0x300 := by decide
/-- M17. -/
theorem test_ldMemVx : runs (step (start 0xF055 fun s => ((s.setI 0x300).setReg 0 0xAB).setReg 1 0xCD)) fun t =>
    t.readByte 0x300 == 0xAB && t.readByte 0x301 == 0 && t.i == 0x300 := by decide
/-- M21: the font's first glyph. -/
theorem test_ldVxMem : runs (step (start 0xF465 (·.setI 0x050))) fun t =>
    t.reg 0 == 0xF0 && t.reg 1 == 0x90 && t.reg 3 == 0x90 && t.reg 4 == 0xF0 && t.reg 5 == 0 && t.i == 0x050 := by decide

/-- K1, K2. -/
theorem test_skp : runs (step (start 0xE49E fun s => (s.setReg 4 0xC).setKey 0xC true)) (·.pc == 0x204) ∧
    runs (step (start 0xE49E (·.setReg 4 0xC))) (·.pc == 0x202) := by decide
/-- K3, K4. -/
theorem test_sknp : runs (step (start 0xE4A1 (·.setReg 4 0xC))) (·.pc == 0x204) ∧
    runs (step (start 0xE4A1 fun s => (s.setReg 4 0xC).setKey 0xC true)) (·.pc == 0x202) := by decide
/-- K11: DT is read before the tick. -/
theorem test_ldVxDt : runs (step (start 0xF307 (·.setDt 0x10))) fun t => t.reg 3 == 0x10 && t.dt == 0x0F := by decide
/-- K7: no key. -/
theorem test_ldVxK_waits : runs (step (start 0xF50A (·.setDt 3))) fun t =>
    t.pc == 0x200 && t.reg 5 == 0 && t.dt == 2 := by decide
/-- K9: the lowest of two keys. -/
theorem test_ldVxK : runs (step (start 0xF50A fun s => (s.setKey 0xA true).setKey 5 true)) fun t =>
    t.reg 5 == 5 && t.pc == 0x202 := by decide
/-- K13. -/
theorem test_ldDtVx : runs (step (start 0xF115 (·.setReg 1 3))) fun t => t.dt == 2 && t.pc == 0x202 := by decide
/-- K16, K17. -/
theorem test_ldStVx : runs (step (start 0xF118 (·.setReg 1 0x20))) (fun t => t.st == 0x1F && t.soundActive) ∧
    runs (step (start 0xF118 (·.setReg 1 1))) (fun t => t.st == 0 && !t.soundActive) := by decide

/-! ### faults, fetch and the host's operations -/

/-- E8: no tick on a fault. -/
theorem test_illegal_step : runs (step (start 0x0000 fun s => (s.setDt 5).setSt 5)) fun t =>
    faultIs t .illegalOpcode 0x200 0x0000 && t.dt == 5 && t.st == 5 := by decide
/-- E10, and E11: the last word of memory can be fetched. -/
theorem test_fetch_bounds : runs (step (State.reset.setPc 0xFFF)) (faultIs · .fetchBounds 0xFFF 0x0FFF) ∧
    runs (step (start 0x1200 (·.setPc 0xFFE))) (·.pc == 0x200) := by decide
/-- E12: an odd pc. -/
theorem test_odd_pc : runs (step (start 0x6007 (·.setPc 0x201))) fun t => t.reg 0 == 7 && t.pc == 0x203 := by decide
/-- F2, F8. -/
theorem test_stack_faults : runs (step (start 0x00EE)) (faultIs · .stackUnderflow 0x200 0) ∧
    runs (step (start 0x2300 fun s => { s with sp := 16 })) (faultIs · .stackOverflow 0x200 0x300) := by decide
/-- D13, D12: N = 0 reads nothing. -/
theorem test_drw_bounds : runs (step (start 0xD013 (·.setI 0xFFE))) (faultIs · .dataBounds 0x200 0xFFE) ∧
    runs (step (start 0xD010 fun s => (s.setI 0x1000).setReg 0xF 0x33)) (fun t => t.reg 0xF == 0 && t.dirty) := by decide
/-- M14, M15. -/
theorem test_ldBVx_faults : runs (step (start 0xF233 (·.setI 0xFFE))) (faultIs · .dataBounds 0x200 0xFFE) ∧
    runs (step (start 0xF233 (·.setI 0x1FF))) (faultIs · .reservedWrite 0x200 0x1FF) := by decide
/-- M19, M20. -/
theorem test_ldMemVx_faults : runs (step (start 0xFF55 (·.setI 0xFF1))) (faultIs · .dataBounds 0x200 0xFF1) ∧
    runs (step (start 0xFF55 (·.setI 0x1F8))) (faultIs · .reservedWrite 0x200 0x1F8) := by decide
/-- M23. -/
theorem test_ldVxMem_fault : runs (step (start 0xF165 (·.setI 0xFFF))) (faultIs · .dataBounds 0x200 0xFFF) := by decide
/-- K5, K6. -/
theorem test_key_faults : runs (step (start 0xE49E (·.setReg 4 0x10))) (faultIs · .keyIndex 0x200 0x10) ∧
    runs (step (start 0xE4A1 (·.setReg 4 0xFF))) (faultIs · .keyIndex 0x200 0xFF) := by decide
/-- L4: a load leaves the bytes that the program does not cover. -/
theorem test_load : ((State.reset.load [0x12, 0x00, 0x34]).2.load [0xAA]).1 = .ok ∧
    [0x200, 0x201, 0x202].map ((State.reset.load [0x12, 0x00, 0x34]).2.load [0xAA]).2.readByte = [0xAA, 0x00, 0x34] := by
  decide
/-- The host's probe of a word: the first step after reset runs it (notes/assumptions/6.md). -/
theorem test_withFetchWord : (State.reset.withFetchWord 16 0x6007).fetchDecode = .ok (.ldImm 0 7) := by decide

/-! ### witnesses: for each statement with hypotheses, a state and operands that meet them, clause by clause -/

/-- A halted core. -/
def stopped : State := State.reset.raiseFault .illegalOpcode 0

theorem witness_EncodeOfDecodedWord : decode 0xD125 = .ok (.drw 1 2 5) := by decide

theorem witness_DecodeFollowsOpcodeTable : decode 0x8AB6 = .ok (.shr 0xA 0xB) ∧ decode 0x8AB8 = .error (.illegal 0x8AB8) ∧
    opcodeTable.all (fun r => !r.matchesWord 0x8AB8) = true := by decide

/-- Each line of the table of 30_encoding.md R96. -/
theorem witness_IllegalWordsAreExactly :
    ([0x0000, 0x5001, 0x8008, 0x800F, 0x9001, 0xE09F, 0xF066] : List Word).all rejected = true ∧
    ([0x00E0, 0x00EE, 0x5000, 0x8007, 0x800E, 0x9000, 0xE0A1, 0xF065] : List Word).all WellFormedWord = true := by decide

theorem witness_StepRunsDecodedInstruction :
    (start 0x6005).faultCode = .none ∧ (start 0x6005).pc.toNat ≤ 0xFFE ∧
    decode (BitVec.ofNat 16 (((start 0x6005).readByte 0x200).toNat * 256 + ((start 0x6005).readByte 0x201).toNat)) =
      .ok (.ldImm 0 5) ∧
    ∃ t, exec (.ldImm 0 5) (start 0x6005) = .next t := ⟨rfl, by decide, by decide, _, rfl⟩

theorem witness_HaltedCoreStaysHalted : stopped.faultCode ≠ .none ∧
    ∃ t, HostOp.setKey 5 true ≠ .reset ∧ stopped.hostMove (.setKey 5 true) = .next t := ⟨by decide, _, by decide, rfl⟩

/-- Both sides of the bound of 30_encoding.md R82, and an odd pc. -/
theorem witness_FetchBoundsFault :
    ((State.reset.setPc 0xFFF).faultCode = .none ∧ (State.reset.setPc 0xFFF).pc.toNat > 0xFFE) ∧
    (start 0x1200 (·.setPc 0xFFE)).pc.toNat ≤ 0xFFE ∧
    decode (start 0x1200 (·.setPc 0xFFE)).fetchWord = .ok (.jp 0x200) ∧
    decode (start 0x1200 (·.setPc 0x201)).fetchWord = .ok (.jp 0x200) := by decide

theorem witness_IllegalOpcodeFault : State.reset.faultCode = .none ∧ State.reset.pc.toNat ≤ 0xFFE ∧
    WellFormedWord State.reset.fetchWord = false := by decide

theorem witness_FaultEntryIsPrecise : (start 0x00EE).faultCode = .none ∧
    ∃ t, step (start 0x00EE) = .next t ∧ t.faultCode ≠ .none := ⟨rfl, _, rfl, by decide⟩

/-- One state per row of 60_exceptions.md R220, each at the edge of its condition. -/
theorem witness_StepFaultsExactlyAsListed :
    FaultCause (start 0x2300 fun s => { s with sp := 16 }) .stackOverflow 0x300 ∧
    FaultCause (start 0x00EE) .stackUnderflow 0 ∧
    FaultCause State.reset .illegalOpcode 0 ∧
    FaultCause (State.reset.setPc 0xFFF) .fetchBounds 0xFFF ∧
    FaultCause (start 0xD013 (·.setI 0xFFE)) .dataBounds 0xFFE ∧
    FaultCause (start 0xF255 (·.setI 0x1FF)) .reservedWrite 0x1FF ∧
    FaultCause (start 0xE49E (·.setReg 4 0x10)) .keyIndex 0x10 :=
  ⟨⟨0x300, by decide, rfl, rfl⟩, ⟨by decide, rfl, rfl⟩, ⟨rfl, by decide, by decide, by decide⟩, ⟨rfl, by decide, rfl⟩,
    ⟨rfl, .inl ⟨0, 1, 3, by decide, by decide, by decide⟩⟩, ⟨rfl, by decide, .inr ⟨2, by decide⟩⟩,
    ⟨4, .inl (by decide), by decide, by decide⟩⟩

/-- A running core with no fault to take. -/
theorem witness_StepFaultsExactlyAsListed_none :
    (start 0x6005).faultCode = .none ∧ ¬ ∃ f info, FaultCause (start 0x6005) f info := by
  refine ⟨rfl, ?_⟩
  rintro ⟨f, info, h⟩
  have hf : ∀ j, Fetches (start 0x6005) j ↔ j = .ldImm 0 5 := fun j =>
    ⟨fun h => Except.ok.inj (h.2.2.symm.trans (by decide)), fun h => h ▸ by decide⟩
  have hw : WellFormedWord (start 0x6005).fetchWord = true := by decide
  have hp : (start 0x6005).pc.toNat = 0x200 := by decide
  cases f <;> simp only [FaultCause, hf, hw, hp] at h <;> simp at h

theorem witness_TickEndsEveryStep : Fetches (start 0x6005 (·.setDt 1)) (.ldImm 0 5) ∧
    ∃ u, exec (.ldImm 0 5) (start 0x6005 (·.setDt 1)) = .next u ∧ u.faultCode = .none := ⟨by decide, _, rfl, rfl⟩

/-- A waiting FX0A and a step that writes DT. -/
theorem witness_TimersTickWhateverRuns :
    (Fetches (start 0xF50A (·.setDt 3)) (.ldVxK 5) ∧
      ∃ t, step (start 0xF50A (·.setDt 3)) = .next t ∧ t.faultCode = .none) ∧
    Fetches (start 0xF115) (.ldDtVx 1) ∧ ∃ t, step (start 0xF115) = .next t ∧ t.faultCode = .none :=
  ⟨⟨by decide, _, rfl, by decide⟩, by decide, _, rfl, by decide⟩

theorem witness_WritesOrderedOnlyByAddress : State.reset.mem.wf = true ∧ 0x000 < 0x1000 ∧ 0xFFF < 0x1000 ∧ 0x000 ≠ 0xFFF := by
  decide

/-- Neither fault, both faults, and the first address of a range that starts below 0x200. -/
theorem witness_RangeCheckIsBytewise :
    (State.reset.setI 0x200).storeRangeFault 16 = none ∧ (State.reset.setI 0x1FF).storeRangeFault 2 = some .reservedWrite ∧
    (State.reset.setI 0xFFF).storeRangeFault 2 = some .dataBounds ∧ (State.reset.setI 0xFFF).loadRangeFault 1 = none := by
  decide

/-- M25; an FX33 onto its own next instruction; and ranges that begin at its second byte and end at its first. -/
theorem witness_StoreSeenByNextFetch :
    (0x200 ≤ (start 0xF155 (·.setI 0x202)).i.toNat ∧ Fetches (start 0xF155 (·.setI 0x202)) (.ldMemVx 1) ∧
      (start 0xF155 (·.setI 0x202)).i.toNat + (1 : Reg).toNat ≤ 0xFFF) ∧
    (0x200 ≤ (start 0xF233 (·.setI 0x202)).i.toNat ∧ Fetches (start 0xF233 (·.setI 0x202)) (.ldBVx 2) ∧
      (start 0xF233 (·.setI 0x202)).i.toNat + 2 ≤ 0xFFF) ∧
    Fetches (start 0xF055 (·.setI 0x203)) (.ldMemVx 0) ∧ Fetches (start 0xF233 (·.setI 0x200)) (.ldBVx 2) ∧
    ∃ t, step (start 0xF155 fun s => (s.setI 0x202).setReg 0 0x12) = .next t ∧ t.pc.toNat ≤ 0xFFE ∧
      decode t.fetchWord = .ok (.jp 0x200) :=
  ⟨by decide, by decide, by decide, by decide, _, rfl, by decide, by decide⟩

/-- A storing step, from memory in canonical form, with the other invariants of the step as well. -/
theorem witness_step_invariants :
    (start 0xF055 (·.setI 0x300)).mem.wf = true ∧ PcBounded (start 0xF055 (·.setI 0x300)) ∧
    FaultStatusSound (start 0xF055 (·.setI 0x300)) ∧ FaultStatusSound stopped ∧
    ∃ t, step (start 0xF055 (·.setI 0x300)) = .next t := by
  refine ⟨by decide, by decide, by decide, by decide, _, rfl⟩

theorem witness_ReservedAreaImmutable : (∃ t, step (start 0xF055 (·.setI 0x1FF)) = .next t) ∧
    (∃ t, HostOp.load [0x60, 0x01] ≠ .reset ∧ State.reset.hostMove (.load [0x60, 0x01]) = .next t) ∧
    (∃ t, State.reset.hostMove .reset = .next t) ∧ 0x1FF < 0x200 ∧ 79 < 80 :=
  ⟨⟨_, rfl⟩, ⟨_, by decide, rfl⟩, ⟨_, rfl⟩, by decide, by decide⟩

theorem witness_ReachableStatesAreSound : Reachable (State.reset.load [0x60, 0x01]).2 :=
  .move (.load [0x60, 0x01]) .reset rfl

theorem witness_OnlyDisplayInstructionsDraw :
    (∃ t, exec .cls State.reset = .next t ∧ t.dirty ≠ State.reset.dirty ∧ t.faultCode = .none) ∧
    ∃ t, exec (.drw 0 0 1) (State.reset.setI 0x050) = .next t ∧ t.pixel 0 0 ≠ State.reset.pixel 0 0 :=
  ⟨⟨_, rfl, by decide, rfl⟩, _, rfl, by decide⟩

theorem witness_OnlyStoresWriteMemory : ∃ t, exec (.ldBVx 2) ((State.reset.setI 0x300).setReg 2 156) = .next t ∧
    ∃ a, t.readByte a ≠ State.reset.readByte a := ⟨_, rfl, 0x301, by decide⟩

theorem witness_StackChangesOnlyByCallAndReturn :
    (∃ t, exec (.call 0x300) State.reset = .next t ∧ t.stack ≠ State.reset.stack ∧ t.sp ≠ State.reset.sp) ∧
    ∃ t, exec .ret { State.reset with sp := 1 } = .next t ∧ t.sp ≠ 1 :=
  ⟨⟨_, rfl, by decide, by decide⟩, _, rfl, by decide⟩

theorem witness_SpecialRegisterWriters :
    (∃ t, exec (.ldI 0x123) State.reset = .next t ∧ t.i ≠ State.reset.i) ∧
    (∃ t, exec (.ldDtVx 1) (State.reset.setReg 1 3) = .next t ∧ t.dt ≠ State.reset.dt) ∧
    ∃ t, exec (.ldStVx 1) (State.reset.setReg 1 3) = .next t ∧ t.st ≠ State.reset.st :=
  ⟨⟨_, rfl, by decide⟩, ⟨_, rfl, by decide⟩, _, rfl, by decide⟩

theorem witness_KeysWrittenOnlyByHost : ∃ t, step (start 0xF50A (·.setKey 5 true)) = .next t ∧ t.key[5] = true :=
  ⟨_, rfl, by decide⟩

/-- SHR does not read its Y nor write it, DXYN writes VF alone and does not read it, FX55 reads no register past X, FX65 reads
none and writes none past X, and BNNN reads V0 alone. -/
theorem witness_RegisterUseFollowsTable :
    (∃ t, exec (.shr 2 3) State.reset = .next t) ∧
    (Instr.shr 2 3).writesReg 3 = false ∧ (Instr.shr 2 3).readsReg 3 = false ∧
    (Instr.drw 0 1 5).writesReg 0 = false ∧ (Instr.drw 0 1 5).readsReg 0xF = false ∧
    (Instr.ldMemVx 4).writesReg 4 = false ∧ (Instr.ldMemVx 4).readsReg 5 = false ∧
    (Instr.ldVxMem 4).writesReg 5 = false ∧ (Instr.ldVxMem 4).readsReg 4 = false ∧
    (Instr.jpV0 0x300).writesReg 0 = false ∧ (Instr.jpV0 0x300).readsReg 3 = false :=
  ⟨⟨_, rfl⟩, by decide⟩

theorem witness_ProgramCounterMoves : State.reset.faultCode = .none ∧
    ∃ t, exec (.jpV0 0x300) State.reset = .next t ∧ t.faultCode = .none := ⟨rfl, _, rfl, rfl⟩

/-- D13, D12, D14, and the collision of D8 with its absence. -/
theorem witness_DrawSpriteResult :
    ((3 : Nibble).toNat > 0 ∧ (State.reset.setI 0xFFE).i.toNat + ((3 : Nibble).toNat - 1) > 0xFFF) ∧
    ((0 : Nibble).toNat = 0 ∧ (State.reset.setI 0x1000).i.toNat > 0xFFF) ∧
    (State.reset.setI 0xFFD).i.toNat + ((3 : Nibble).toNat - 1) ≤ 0xFFF ∧
    ((State.reset.togglePixel 0 0).setI 0x050).pixel 0 0 = true ∧
    spriteLit ((State.reset.togglePixel 0 0).setI 0x050) 0 0 1 0 0 = true ∧
    ¬ ∃ px py, px < 64 ∧ py < 32 ∧ State.reset.pixel px py = true ∧ spriteLit State.reset 0 0 0 px py = true := by
  refine ⟨by decide, by decide, by decide, by decide, by decide, ?_⟩
  rintro ⟨px, py, -, -, -, h⟩
  simp [spriteLit] at h

/-- sp at 0, 1, 15 and 16. -/
theorem witness_CallAndReturn : State.reset.sp.val = 0 ∧ 0 < ({ State.reset with sp := 1 } : State).sp.val ∧
    ({ State.reset with sp := 15 } : State).sp.val < 16 ∧ ({ State.reset with sp := 16 } : State).sp.val = 16 := by decide

theorem witness_JumpResult : State.reset.faultCode = .none ∧ (0xFFE : Addr) ≠ 0xFFF := by decide

/-- The lowest sum past the last fetchable address. -/
theorem witness_JumpPlusV0Result : (State.reset.setReg 0 1).faultCode = .none ∧
    (0xFFE : Addr).toNat + ((State.reset.setReg 0 1).reg 0).toNat > 0xFFE := by decide

/-- Register numbers on both sides of 0xF, for every statement that tells VF apart. -/
theorem witness_flag_register_cases : (0 : Reg) ≠ 0xF ∧ (0xE : Reg) ≠ 0xF ∧ (0 : Reg) ≠ 0xE := by decide

/-- M4: the state after M3. -/
theorem witness_IndexResults : (∃ t, exec (.addIVx 0) ((State.reset.setI 0xFFF).setReg 0 1) = .next t ∧
    t.i.toNat > 0xFFF) ∧ (1 : Nibble) ≠ 0 := ⟨⟨_, rfl, by decide⟩, by decide⟩

/-- The edges of FX33's range: M14, M15, and the lowest and highest range it may store. -/
theorem witness_StoreDecimalResult : (State.reset.setI 0xFFE).i.toNat + 2 > 0xFFF ∧ (State.reset.setI 0x1FF).i.toNat < 0x200 ∧
    0x200 ≤ (State.reset.setI 0x200).i.toNat ∧ (State.reset.setI 0xFFD).i.toNat + 2 ≤ 0xFFF := by decide

/-- The edges of the ranges of FX55 and FX65 for X = 15: M19, M20, M18, and a register outside FX65's range. -/
theorem witness_register_ranges : (State.reset.setI 0xFF1).i.toNat + (0xF : Reg).toNat > 0xFFF ∧
    (State.reset.setI 0x1FF).i.toNat < 0x200 ∧ 0x200 ≤ (State.reset.setI 0x200).i.toNat ∧
    (State.reset.setI 0xFF0).i.toNat + (0xF : Reg).toNat ≤ 0xFFF ∧ ¬ (5 : Reg).toNat ≤ (4 : Reg).toNat := by decide

/-- VX = 0x10 and VX = 0x0F. -/
theorem witness_KeySkipResults : ((State.reset.setReg 4 0x10).reg 4).toNat > 0xF ∧
    (0xF : Reg).toNat = ((State.reset.setReg 4 0x0F).reg 4).toNat := by decide

/-- One key with none below it, and no key. -/
theorem witness_KeyWaitResult : (State.reset.setKey 5 true).keyDown 5 = true ∧
    (∀ j : Reg, j.toNat < (5 : Reg).toNat → (State.reset.setKey 5 true).keyDown j = false) ∧
    (∀ k : Reg, State.reset.keyDown k = false) ∧ Fetches (start 0xF50A) (.ldVxK 5) := by decide

/-- A core that waits, and the same core halted, which does not (notes/assumptions/13.md). -/
theorem witness_WaitingReadOffState : (start 0xF50A).waiting = true ∧ Fetches (start 0xF50A) (.ldVxK 5) ∧
    (∀ k : Reg, (start 0xF50A).keyDown k = false) ∧ (start 0xF50A (·.raiseFault .illegalOpcode 0)).waiting = false := by
  decide

theorem witness_TimerTransferResults : Fetches (start 0xF307) (.ldVxDt 3) ∧ Fetches (start 0xF115) (.ldDtVx 1) ∧
    Fetches (start 0xF118 (·.setReg 1 1)) (.ldStVx 1) ∧ ((start 0xF118 (·.setReg 1 1)).reg 1).toNat = 1 := by decide

/-- FX15 and then FX07, as in program P4. -/
theorem witness_TimerWriteThenRead :
    Fetches (start 0xF115 fun s => (s.writeByte 0x202 0xF2).writeByte 0x203 0x07) (.ldDtVx 1) ∧
    (∃ t, step (start 0xF115 fun s => (s.writeByte 0x202 0xF2).writeByte 0x203 0x07) = .next t ∧
      Fetches t (.ldVxDt 2)) ∧
    Fetches (start 0xF118 (·.setReg 1 1)) (.ldStVx 1) ∧ (start 0xF118 (·.setReg 1 1)).reg 1 = 1 :=
  ⟨by decide, ⟨_, rfl, by decide⟩, by decide, by decide⟩

theorem witness_ResetValues : ∃ t, stopped.hostMove .reset = .next t := ⟨_, rfl⟩

/-- The longest program that is taken and the shortest that is not (L2, L3). -/
theorem witness_LoadCopiesProgram : (List.replicate 3584 (0 : Byte)).length ≤ 3584 ∧
    (List.replicate 3585 (0 : Byte)).length > 3584 := by
  rw [List.length_replicate, List.length_replicate]
  decide

theorem witness_GlyphOfDigit : 4 < 5 := by decide

theorem witness_HostPortsRead : ∃ t, step (start 0x00EE) = .next t := ⟨_, rfl⟩

end Sys2Proof.Tests
end

section
/-! What a step of a running core can do, fault or no fault (60_exceptions.md R221), and the obligations of the scope that
follow from it. -/

namespace Sys2Proof.Machine

open Sys2Proof

/-- The faults of fetch and decode are faults of the table, never the code 0 (30_encoding.md R82, R96). -/
theorem fetchDecode_error_ne_none {s : State} {f : FaultCode} {info : Word}
    (hf : s.fetchDecode = .error (f, info)) : f ≠ .none := by
  obtain ⟨-, hb⟩ | ⟨-, -, hb⟩ | ⟨-, i, -, hb⟩ := fetchDecode_cases s <;> rw [hf] at hb
  · cases hb; decide
  · cases hb; decide
  · cases hb

/-- A running core's step either enters a fault, or executes an instruction that leaves the core running, and ticks
(30_encoding.md R80, 60_exceptions.md R221). -/
theorem step_cases_of_running {s t : State} (hs : s.faultCode = .none) (h : step s = .next t) :
    (∃ f info, f ≠ .none ∧ t = s.raiseFault f info) ∨
    (∃ i u, s.fetchDecode = .ok i ∧ exec i s = .next u ∧ u.faultCode = .none ∧ t = u.tick) := by
  obtain ⟨hhalt, -⟩ | ⟨-, f, info, hf, rfl⟩ | ⟨-, i, u, hf, hx, rfl⟩ := step_cases h
  · simp [State.halted, hs] at hhalt
  · exact .inl ⟨f, info, fetchDecode_error_ne_none hf, rfl⟩
  · obtain ⟨f, info, hne, rfl⟩ | ⟨-, hcode, -, -⟩ := exec_cases hx
    · exact .inl ⟨f, info, hne, endStep_of_fault hne⟩
    · have hu : u.faultCode = .none := hcode.trans hs
      exact .inr ⟨i, u, hf, hx, hu, endStep_of_running hu⟩

/-- Settles O12: a step that does not enter a fault ends in a tick of a running core, which records no fault. -/
theorem faultEntryIsPrecise : Obligations.FaultEntryIsPrecise := by
  intro s t hs h ht
  obtain ⟨f, info, -, rfl⟩ | ⟨i, u, -, -, hu, rfl⟩ := step_cases_of_running hs h
  · rfl
  · exact absurd hu ht

end Sys2Proof.Machine
end

section
/-! What an execution that raises no fault does, said once for all 34 instructions, and the obligations on pc, the stack and
the special registers that are read off it. -/

namespace Sys2Proof.Machine

open Sys2Proof

/-! ### The inversion of `exec` -/

/-- A range check that fails answers the fault of one of its addresses. -/
theorem exists_of_firstFault_eq_some {check : Nat → Option FaultCode} {a n : Nat} {f : FaultCode}
    (h : firstFault check a n = some f) : ∃ b, check b = some f := by
  induction n generalizing a with
  | zero => cases h
  | succ n ih =>
    unfold firstFault at h
    split at h
    · next hc => exact ⟨a, hc.trans h⟩
    · exact ih h

/-- The reading check never answers the code 0 (60_exceptions.md R220). -/
theorem loadRangeFault_ne_none {s : State} {n : Nat} {f : FaultCode} (h : s.loadRangeFault n = some f) :
    f ≠ .none := by
  rintro rfl
  obtain ⟨b, hb⟩ := exists_of_firstFault_eq_some h
  simp [readFault] at hb

/-- The storing check never answers the code 0 (60_exceptions.md R220). -/
theorem storeRangeFault_ne_none {s : State} {n : Nat} {f : FaultCode} (h : s.storeRangeFault n = some f) :
    f ≠ .none := by
  rintro rfl
  obtain ⟨b, hb⟩ := exists_of_firstFault_eq_some h
  unfold writeFault at hb
  split_ifs at hb <;> cases hb

/-- `Executed s i t`: the instruction i, executed on s without a fault, gives t. Where an instruction can do several things,
each has its constructor or its guard. `exec_executed` ties it to `exec`. -/
inductive Executed (s : State) : Instr → State → Prop where
  | cls : Executed s .cls s.clearPixels.setDirty.advance
  | ret (h : s.sp.val ≠ 0) : Executed s .ret (s.popSp.setPc (s.stackTop + 2))
  | jp (nnn : Addr) : Executed s (.jp nnn) (s.setPc (zextAddr nnn))
  | call (nnn : Addr) (h : s.sp.val < 16) : Executed s (.call nnn) ((s.pushPc h).setPc (zextAddr nnn))
  | seImm (x : Reg) (nn : Byte) : Executed s (.seImm x nn) (s.skipIf (s.reg x == nn))
  | sneImm (x : Reg) (nn : Byte) : Executed s (.sneImm x nn) (s.skipIf (s.reg x != nn))
  | seReg (x y : Reg) : Executed s (.seReg x y) (s.skipIf (s.reg x == s.reg y))
  | sneReg (x y : Reg) : Executed s (.sneReg x y) (s.skipIf (s.reg x != s.reg y))
  | ldImm (x : Reg) (nn : Byte) : Executed s (.ldImm x nn) (s.setReg x nn).advance
  | addImm (x : Reg) (nn : Byte) : Executed s (.addImm x nn) (s.setReg x (s.reg x + nn)).advance
  | ldReg (x y : Reg) : Executed s (.ldReg x y) (s.setReg x (s.reg y)).advance
  | orReg (x y : Reg) : Executed s (.orReg x y) (s.setReg x (s.reg x ||| s.reg y)).advance
  | andReg (x y : Reg) : Executed s (.andReg x y) (s.setReg x (s.reg x &&& s.reg y)).advance
  | xorReg (x y : Reg) : Executed s (.xorReg x y) (s.setReg x (s.reg x ^^^ s.reg y)).advance
  | addReg (x y : Reg) :
    Executed s (.addReg x y)
      ((s.setReg x (s.reg x + s.reg y)).setReg Reg.vf (carryFlag (s.reg x) (s.reg y))).advance
  | sub (x y : Reg) :
    Executed s (.sub x y)
      (let t := s.setReg Reg.vf (greaterFlag (s.reg x) (s.reg y)); (t.setReg x (t.reg x - t.reg y)).advance)
  | shr (x y : Reg) :
    Executed s (.shr x y)
      (let t := s.setReg Reg.vf (shrFlag (s.reg x)); (t.setReg x (t.reg x >>> 1)).advance)
  | subn (x y : Reg) :
    Executed s (.subn x y)
      (let t := s.setReg Reg.vf (greaterFlag (s.reg y) (s.reg x)); (t.setReg x (t.reg y - t.reg x)).advance)
  | shl (x y : Reg) :
    Executed s (.shl x y)
      (let t := s.setReg Reg.vf (shlFlag (s.reg x)); (t.setReg x (t.reg x <<< 1)).advance)
  | ldI (nnn : Addr) : Executed s (.ldI nnn) (s.setI (zextAddr nnn)).advance
  | jpV0 (nnn : Addr) : Executed s (.jpV0 nnn) (s.setPc (zextAddr nnn + zextByte (s.reg 0)))
  | rnd (x : Reg) (nn : Byte) : Executed s (.rnd x nn) (s.drawn.setReg x (s.rndByte &&& nn)).advance
  | drw (x y : Reg) (n : Nibble) (h : s.loadRangeFault n.toNat = none) :
    Executed s (.drw x y n)
      (let d := drawRows (originX (s.reg x)) (originY (s.reg y)) n.toNat (s, false)
       (d.1.setReg Reg.vf (collisionFlag d.2)).setDirty.advance)
  | skp (x k : Reg) (h : keyNumber? (s.reg x) = some k) : Executed s (.skp x) (s.skipIf (s.keyDown k))
  | sknp (x k : Reg) (h : keyNumber? (s.reg x) = some k) : Executed s (.sknp x) (s.skipIf (!s.keyDown k))
  | ldVxDt (x : Reg) : Executed s (.ldVxDt x) (s.setReg x s.dt).advance
  | ldVxK (x k : Reg) (h : s.selectKey = some k) : Executed s (.ldVxK x) (s.setReg x (k.setWidth 8)).advance
  | ldVxKWait (x : Reg) (h : s.selectKey = none) : Executed s (.ldVxK x) s
  | ldDtVx (x : Reg) : Executed s (.ldDtVx x) (s.setDt (s.reg x)).advance
  | ldStVx (x : Reg) : Executed s (.ldStVx x) (s.setSt (s.reg x)).advance
  | addIVx (x : Reg) : Executed s (.addIVx x) (s.setI (s.i + zextByte (s.reg x))).advance
  | ldFVx (x : Reg) : Executed s (.ldFVx x) (s.setI (glyphAddr (s.reg x))).advance
  | ldBVx (x : Reg) (h : s.storeRangeFault 3 = none) :
    Executed s (.ldBVx x) (s.writeBytes (s.dataAddr 0) (bcdDigits (s.reg x))).advance
  | ldMemVx (x : Reg) (h : s.storeRangeFault (x.toNat + 1) = none) :
    Executed s (.ldMemVx x) (s.writeBytes (s.dataAddr 0) (s.regsUpTo x)).advance
  | ldVxMem (x : Reg) (h : s.loadRangeFault (x.toNat + 1) = none) : Executed s (.ldVxMem x) (s.loadRegs x).advance

/-- An execution either takes a fault, which changes the fault status alone, or is the instruction's own effect. -/
theorem exec_executed {i : Instr} {s t : State} (h : exec i s = .next t) :
    (∃ f info, f ≠ FaultCode.none ∧ t = s.raiseFault f info) ∨ Executed s i t := by
  cases i with
  | ret =>
    simp only [exec, execRet] at h
    split at h <;> cases next_inj h
    · exact .inl ⟨_, _, by decide, rfl⟩
    · next hsp => exact .inr (.ret hsp)
  | call nnn =>
    simp only [exec, execCall] at h
    split at h <;> cases next_inj h
    · exact .inr (.call ..)
    · exact .inl ⟨_, _, by decide, rfl⟩
  | drw x y n =>
    simp only [exec, execDrw] at h
    split at h <;> cases next_inj h
    · next hf => exact .inl ⟨_, _, loadRangeFault_ne_none hf, rfl⟩
    · next hn => exact .inr (.drw _ _ _ hn)
  | skp x =>
    simp only [exec, execSkp] at h
    split at h <;> cases next_inj h
    · exact .inl ⟨_, _, by decide, rfl⟩
    · next hk => exact .inr (.skp x _ hk)
  | sknp x =>
    simp only [exec, execSknp] at h
    split at h <;> cases next_inj h
    · exact .inl ⟨_, _, by decide, rfl⟩
    · next hk => exact .inr (.sknp x _ hk)
  | ldVxK x =>
    simp only [exec, execLdVxK] at h
    split at h <;> cases next_inj h
    · next hk => exact .inr (.ldVxK x _ hk)
    · next hk => exact .inr (.ldVxKWait x hk)
  | ldBVx x =>
    simp only [exec, execLdBVx] at h
    split at h <;> cases next_inj h
    · next hf => exact .inl ⟨_, _, storeRangeFault_ne_none hf, rfl⟩
    · next hn => exact .inr (.ldBVx x hn)
  | ldMemVx x =>
    simp only [exec, execLdMemVx] at h
    split at h <;> cases next_inj h
    · next hf => exact .inl ⟨_, _, storeRangeFault_ne_none hf, rfl⟩
    · next hn => exact .inr (.ldMemVx x hn)
  | ldVxMem x =>
    simp only [exec, execLdVxMem] at h
    split at h <;> cases next_inj h
    · next hf => exact .inl ⟨_, _, loadRangeFault_ne_none hf, rfl⟩
    · next hn => exact .inr (.ldVxMem x hn)
  | _ =>
    cases next_inj h
    right; constructor

/-- A running core that still runs after an execution has executed the instruction. -/
theorem executed_of_running {i : Instr} {s t : State} (h : exec i s = .next t) (ht : t.faultCode = .none) :
    Executed s i t := by
  obtain ⟨f, info, hne, rfl⟩ | hx := exec_executed h
  · exact absurd ht hne
  · exact hx

/-! ### pc, the stack and the special registers -/

/-- Settles O31, by the effect of each instruction. -/
theorem programCounterMoves : Obligations.ProgramCounterMoves := by
  intro i s t _ h ht
  cases executed_of_running h ht with
  | jp nnn | call nnn _ => simp
  | jpV0 nnn =>
    have hn := nnn.isLt
    have hv := (s.reg 0).isLt
    simp only [State.setPc_pc, BitVec.toNat_add, zextAddr_toNat, zextByte_toNat]
    omega
  | ret hsp => exact ⟨by omega, rfl⟩
  | seImm | sneImm | seReg | sneReg | skp | sknp =>
    simp only [State.skipIf_pc]
    split
    · exact .inr rfl
    · exact .inl rfl
  | ldVxK => exact .inl rfl
  | ldVxKWait => exact .inr rfl
  | _ => simp

/-- Settles O27: a fault keeps the stack, and so does every effect but those of 2NNN and 00EE. -/
theorem stackChangesOnlyByCallAndReturn : Obligations.StackChangesOnlyByCallAndReturn := by
  intro i s t h
  obtain ⟨f, info, -, rfl⟩ | hx := exec_executed h
  · simp
  · cases hx with
    | call nnn hsp => exact ⟨fun _ => ⟨nnn, rfl⟩, fun _ => .inl ⟨nnn, rfl, rfl⟩⟩
    | ret hsp => exact ⟨fun hne => absurd rfl hne, fun _ => .inr ⟨rfl, by simp; omega⟩⟩
    | _ => simp

/-- Settles O28: a fault keeps I, DT and ST, and so does every effect but those of their writers. -/
theorem specialRegisterWriters : Obligations.SpecialRegisterWriters := by
  intro i s t h
  obtain ⟨f, info, -, rfl⟩ | hx := exec_executed h
  · simp
  · cases hx with
    | _ => simp

end Sys2Proof.Machine
end

section
/-! The invariants of the core: what every step keeps, and that every move of the host keeps it. -/

namespace Sys2Proof.Machine

open Sys2Proof

/-! ### The bound on pc and on the stack -/

/-- Fetch and decode answer an instruction exactly when pc is fetchable and the word there decodes to it (30_encoding.md R80). -/
theorem fetchDecode_eq_ok_iff {s : State} {i : Instr} :
    s.fetchDecode = .ok i ↔ s.pc.toNat ≤ 0xFFE ∧ decode s.fetchWord = .ok i := by
  refine ⟨fun h => ?_, fun ⟨hp, hd⟩ => fetchDecode_ok hp hd⟩
  obtain ⟨-, he⟩ | ⟨-, -, he⟩ | ⟨hp, j, hd, he⟩ := fetchDecode_cases s <;> rw [he] at h <;> cases h
  exact ⟨hp, hd⟩

/-- From a fetchable pc, with fetchable return addresses, no instruction takes pc beyond 0x10FE, which BNNN can reach
(10_state.md R26, 41_control_flow.md R138). -/
theorem pc_le_of_executed {i : Instr} {s t : State} (hp : s.pc.toNat ≤ 0xFFE)
    (hst : ∀ k : Reg, (s.stack[k.toNat]).toNat ≤ 0xFFE) (hx : Executed s i t) : t.pc.toNat ≤ 0x10FE := by
  have hadv : (s.pc + 2).toNat ≤ 0x10FE := by bv_omega
  cases hx with
  | ret hsp =>
    have hk : s.sp.val - 1 < 16 := by omega
    have htop : s.stackTop.toNat ≤ 0xFFE := by
      have := hst (BitVec.ofNat 4 (s.sp.val - 1))
      simpa [State.stackTop, Nat.mod_eq_of_lt hk] using this
    simp only [State.setPc_pc]
    bv_omega
  | jp nnn | call nnn =>
    have hn := nnn.isLt
    simp only [State.setPc_pc, zextAddr_toNat]
    omega
  | jpV0 nnn =>
    have hn := nnn.isLt
    have hv := (s.reg 0).isLt
    simp only [State.setPc_pc, BitVec.toNat_add, zextAddr_toNat, zextByte_toNat]
    omega
  | seImm | sneImm | seReg | sneReg | skp | sknp =>
    simp only [State.skipIf_pc]
    split <;> bv_omega
  | ldVxKWait => omega
  | _ => simpa using hadv

/-- An instruction writes no stack entry but 2NNN, which pushes pc (41_control_flow.md R133). -/
theorem stack_of_executed {i : Instr} {s t : State} (hx : Executed s i t) :
    t.stack = s.stack ∨ ∃ h : s.sp.val < 16, t.stack = s.stack.set s.sp.val s.pc := by
  cases hx with
  | call nnn hsp => exact .inr ⟨hsp, rfl⟩
  | _ => simp

/-- A stack entry after an execution is an old entry or the pc of the instruction, so it is fetchable (10_state.md R27). -/
theorem stack_le_of_executed {i : Instr} {s t : State} (hp : s.pc.toNat ≤ 0xFFE)
    (hst : ∀ k : Reg, (s.stack[k.toNat]).toNat ≤ 0xFFE) (hx : Executed s i t) (k : Reg) :
    (t.stack[k.toNat]).toNat ≤ 0xFFE := by
  obtain ht | ⟨hsp, ht⟩ := stack_of_executed hx
  · simpa only [ht] using hst k
  · simp only [ht, Vector.getElem_set]
    split
    · exact hp
    · exact hst k

/-- Settles O21: the instruction a step executes lies at a fetchable pc, and a fault moves neither pc nor the stack. -/
theorem stepKeepsPcBounded : Obligations.StepKeepsPcBounded := by
  rintro s t ⟨hpc, hst⟩ h
  obtain ⟨-, rfl⟩ | ⟨-, f, info, -, rfl⟩ | ⟨-, i, u, hf, hx, rfl⟩ := step_cases h
  · exact ⟨hpc, hst⟩
  · exact ⟨hpc, hst⟩
  · have hp : s.pc.toNat ≤ 0xFFE := (fetchDecode_eq_ok_iff.mp hf).1
    have hu : PcBounded u := by
      obtain ⟨f, info, -, rfl⟩ | he := exec_executed hx
      · exact ⟨hpc, hst⟩
      · exact ⟨pc_le_of_executed hp hst he, stack_le_of_executed hp hst he⟩
    rw [endStep_eq]
    exact hu

/-! ### The fault status -/

/-- Settles O22: a halted core does not move; a fault records its pc; any other step leaves the fault status as it was. -/
theorem stepKeepsFaultStatusSound : Obligations.StepKeepsFaultStatusSound := by
  rintro s t ⟨hrun, hhalt⟩ h
  by_cases hs : s.faultCode = .none
  · obtain ⟨f, info, hne, rfl⟩ | ⟨i, u, -, hx, hu, rfl⟩ := step_cases_of_running hs h
    · exact ⟨fun hf => absurd hf hne, fun _ => rfl⟩
    · obtain ⟨f, info, hne, rfl⟩ | ⟨-, -, hpc, hinfo⟩ := exec_cases hx
      · exact absurd hu hne
      · exact ⟨fun _ => ⟨hpc.trans (hrun hs).1, hinfo.trans (hrun hs).2⟩, fun hne => absurd hu hne⟩
  · rw [step_of_halted ((State.halted_eq_true s).mpr hs)] at h
    cases next_inj h
    exact ⟨hrun, hhalt⟩

/-! ### Memory -/

/-- Memory after a step: as before, or a run of bytes stored from I on, inside 0x200 .. 0xFFF (20_memory.md R67, R68). -/
theorem step_mem {s t : State} (h : step s = .next t) :
    t.mem = s.mem ∨ ∃ us : List Byte, 0x200 ≤ s.i.toNat ∧ s.i.toNat + us.length ≤ 0x1000 ∧
      t.mem = (s.writeBytes s.i.toNat us).mem := by
  obtain ⟨-, rfl⟩ | ⟨-, f, info, -, rfl⟩ | ⟨-, i, u, -, hx, rfl⟩ := step_cases h
  · exact .inl rfl
  · exact .inl rfl
  · rw [endStep_eq]
    obtain hm | ⟨us, hlo, hhi, hm, -⟩ := exec_mem hx
    · exact .inl hm
    · exact .inr ⟨us, hlo, hhi, hm⟩

/-- Every step keeps memory in canonical form (20_memory.md R60, R67). -/
theorem step_mem_wf {s t : State} (hw : s.mem.wf = true) (h : step s = .next t) : t.mem.wf = true := by
  obtain hm | ⟨us, -, hhi, hm⟩ := step_mem h <;> rw [hm]
  · exact hw
  · exact State.writeBytes_wf hw hhi

/-- Bytes stored from an address on leave the bytes below it. -/
theorem State.readByte_writeBytes_of_lt (s : State) {a b : Nat} (us : List Byte) (h : b < a) :
    (s.writeBytes a us).readByte b = s.readByte b := by
  rw [State.readByte_writeBytes, if_neg (by omega)]

/-- A byte depends on `mem` alone. -/
theorem State.readByte_congr {s t : State} (h : t.mem = s.mem) (a : Nat) : t.readByte a = s.readByte a := by
  simp only [State.readByte, h]

/-- No step changes a byte of the reserved area (20_memory.md R65). -/
theorem step_readByte_of_lt {s t : State} (h : step s = .next t) {a : Nat} (ha : a < 0x200) :
    t.readByte a = s.readByte a := by
  obtain hm | ⟨us, hlo, -, hm⟩ := step_mem h <;> rw [State.readByte_congr hm]
  exact State.readByte_writeBytes_of_lt s us (by omega)

/-! ### Every move of the host -/

/-- The four invariants together. -/
abbrev Sound (s : State) : Prop := s.mem.wf = true ∧ ReservedIntact s ∧ PcBounded s ∧ FaultStatusSound s

/-- Settles O23: each component has its value of 10_state.md R49. -/
theorem resetMeetsInvariants : Obligations.ResetMeetsInvariants := by
  refine ⟨State.reset_mem_wf, fun _ _ => rfl, ⟨by decide, fun k => ?_⟩, fun _ => ⟨rfl, rfl⟩, fun h => absurd rfl h⟩
  simp [State.reset]

theorem step_keeps_sound {s t : State} (hs : Sound s) (h : step s = .next t) : Sound t := by
  obtain ⟨hw, hr, hp, hf⟩ := hs
  exact ⟨step_mem_wf hw h, fun a ha => (step_readByte_of_lt h ha).trans (hr a ha), stepKeepsPcBounded s t hp h,
    stepKeepsFaultStatusSound s t hf h⟩

/-- A load changes memory alone, and there only addresses from 0x200 to 0xFFF (70_reset_and_hazards.md R252). -/
theorem load_keeps_sound {s : State} (hs : Sound s) (bytes : List Byte) : Sound (s.load bytes).2 := by
  obtain ⟨hw, hr, hp, hf⟩ := hs
  unfold State.load
  split
  · exact ⟨hw, hr, hp, hf⟩
  · next hlen =>
    simp only [Config.maxRom] at hlen
    refine ⟨State.writeBytes_wf hw (by simp only [Config.progBase]; omega), fun a ha => ?_, ?_⟩
    · exact (State.readByte_writeBytes_of_lt s bytes ha).trans (hr a ha)
    · rw [State.writeBytes_eq]
      exact ⟨hp, hf⟩

theorem hostMove_keeps_sound {s t : State} (hs : Sound s) (op : HostOp) (h : s.hostMove op = .next t) : Sound t := by
  cases op with
  | reset => cases next_inj h; exact resetMeetsInvariants
  | load bytes => cases next_inj h; exact load_keeps_sound hs bytes
  | step => exact step_keeps_sound hs h
  | setKey k b => cases next_inj h; exact hs
  | readDirty => cases next_inj h; exact hs

/-- Settles O24, by induction on the host's moves. -/
theorem reachableStatesAreSound : Obligations.ReachableStatesAreSound := by
  intro s hs
  induction hs with
  | reset => exact resetMeetsInvariants
  | move op _ hm ih => exact hostMove_keeps_sound ih op hm

end Sys2Proof.Machine
end

section
/-! Which general registers an instruction writes and reads (10_state.md R23). -/

namespace Sys2Proof.Machine

open Sys2Proof

/-! ### What an instruction writes -/

/-- A register outside the "writes V" column of 10_state.md R23 is kept. -/
theorem reg_of_executed {i : Instr} {s t : State} {r : Reg} (hx : Executed s i t) (hr : i.writesReg r = false) :
    t.reg r = s.reg r := by
  cases hx with
  | drw x y n hn =>
    have hd := State.reg_congr (drawRows_v s (originX (s.reg x)) (originY (s.reg y)) n.toNat) r
    simp_all [Instr.writesReg]
  | ldBVx | ldMemVx => exact State.reg_congr (by simp) r
  | ldVxMem x hn => simp_all [Instr.writesReg, State.reg_loadRegs]
  | _ => simp_all [Instr.writesReg]

/-! ### What an instruction reads: the run in which register r has another value -/

/-- Two states that differ in register r alone. -/
theorem State.eq_setReg {s t : State} (r : Reg) (ht : t = { s with v := t.v })
    (hq : ∀ q, q ≠ r → t.reg q = s.reg q) : t = s.setReg r (t.reg r) := by
  have hv : t.v = (s.setReg r (t.reg r)).v := by
    refine State.v_ext fun q => ?_
    rw [State.reg_setReg]
    split_ifs with h
    · rw [h]
    · exact hq q h
  calc t = { s with v := t.v } := ht
    _ = s.setReg r (t.reg r) := by rw [hv]; rfl

/-- A later write of a register wins over an earlier one of the same. -/
theorem State.setReg_setReg (s : State) (r x : Reg) (u a : Byte) :
    (s.setReg r u).setReg x a = (s.setReg x a).setReg r (if r = x then a else u) := by
  rw [State.eq_setReg (s := s.setReg x a) (t := (s.setReg r u).setReg x a) r rfl fun q hq => by simp [hq]]
  simp

theorem State.writeBytes_setReg (s : State) (r : Reg) (u : Byte) (a : Nat) (us : List Byte) :
    (s.setReg r u).writeBytes a us = (s.writeBytes a us).setReg r u := by
  induction us generalizing s a with
  | nil => rfl
  | cons b us ih => exact ih (s.writeByte a b) (a + 1)

/-- FX55 stores no register above VX. -/
theorem State.regsUpTo_setReg (s : State) {r x : Reg} (u : Byte) (h : ¬ r.toNat ≤ x.toNat) :
    (s.setReg r u).regsUpTo x = s.regsUpTo x := by
  refine List.map_congr_left fun k hk => ?_
  have hkx : k < x.toNat + 1 := List.mem_range.mp hk
  have hne : regOf k ≠ r := by
    rintro rfl
    rw [regOf_toNat (by omega)] at h
    omega
  simp [hne]

/-- FX65 reads no register. -/
theorem State.loadRegs_setReg (s : State) (r x : Reg) (u : Byte) :
    ∃ w, (s.setReg r u).loadRegs x = (s.loadRegs x).setReg r w := by
  refine ⟨_, State.eq_setReg r ?_ fun q hq => ?_⟩
  · rw [State.loadRegs_eq (s.setReg r u), State.loadRegs_eq s]
    rfl
  · simp [State.reg_loadRegs, hq]

theorem State.drawn_setReg (s : State) (r : Reg) (u : Byte) : (s.setReg r u).drawn = s.drawn.setReg r u := rfl

/-- A register that the instruction reads is not one that it does not read. -/
theorem State.reg_setReg_of_readsReg {i : Instr} {q r : Reg} (hr : i.readsReg r = false) (hq : i.readsReg q = true)
    (s : State) (u : Byte) : (s.setReg r u).reg q = s.reg q := by
  have hne : q ≠ r := by
    rintro rfl
    simp [hr] at hq
  simp [hne]

/-- Executing i with another value in a register outside its "reads V" column gives the same next state but for that
register (10_state.md R23). -/
theorem exec_setReg {i : Instr} {r : Reg} (hr : i.readsReg r = false) (s : State) (u : Byte) :
    ∃ t, exec i s = .next t ∧ ∃ w, exec i (s.setReg r u) = .next (t.setReg r w) := by
  have hread := fun q hq => State.reg_setReg_of_readsReg (q := q) hr hq
  cases i with
  | ret =>
    by_cases hsp : s.sp.val = 0
    · exact ⟨_, if_pos hsp, u, if_pos hsp⟩
    · exact ⟨_, if_neg hsp, u, if_neg hsp⟩
  | call nnn =>
    by_cases hsp : s.sp.val < 16
    · exact ⟨_, dif_pos hsp, u, dif_pos hsp⟩
    · exact ⟨_, dif_neg hsp, u, dif_neg hsp⟩
  | drw x y n =>
    have hload : (s.setReg r u).loadRangeFault n.toNat = s.loadRangeFault n.toNat := rfl
    simp only [Instr.readsReg, Bool.or_eq_true, beq_iff_eq, forall_eq_or_imp, forall_eq] at hread
    simp only [exec, execDrw, hload, hread, drawRows_setReg, State.setReg_setReg _ r]
    split
    · exact ⟨_, rfl, u, rfl⟩
    · exact ⟨_, rfl, _, rfl⟩
  | skp x | sknp x =>
    simp only [Instr.readsReg, beq_iff_eq, forall_eq] at hread
    simp only [exec, execSkp, execSknp, hread]
    split <;> exact ⟨_, rfl, u, rfl⟩
  | ldVxK x =>
    have hkey : (s.setReg r u).selectKey = s.selectKey := rfl
    simp only [exec, execLdVxK, hkey, State.setReg_setReg _ r]
    split
    · exact ⟨_, rfl, _, rfl⟩
    · exact ⟨_, rfl, u, rfl⟩
  | ldBVx x =>
    have hstore : (s.setReg r u).storeRangeFault 3 = s.storeRangeFault 3 := rfl
    simp only [Instr.readsReg, beq_iff_eq, forall_eq] at hread
    simp only [exec, execLdBVx, hstore, hread, State.writeBytes_setReg]
    split <;> exact ⟨_, rfl, u, rfl⟩
  | ldMemVx x =>
    have hstore : (s.setReg r u).storeRangeFault (x.toNat + 1) = s.storeRangeFault (x.toNat + 1) := rfl
    have hregs := s.regsUpTo_setReg u (of_decide_eq_false hr)
    simp only [exec, execLdMemVx, hstore, hregs, State.writeBytes_setReg]
    split <;> exact ⟨_, rfl, u, rfl⟩
  | ldVxMem x =>
    have hload : (s.setReg r u).loadRangeFault (x.toNat + 1) = s.loadRangeFault (x.toNat + 1) := rfl
    obtain ⟨w, hw⟩ := s.loadRegs_setReg r x u
    simp only [exec, execLdVxMem, hload, hw]
    split
    · exact ⟨_, rfl, u, rfl⟩
    · exact ⟨_, rfl, w, rfl⟩
  | ldImm | ldReg | addImm | orReg | andReg | xorReg | addReg | sub | shr | subn | shl | rnd | ldVxDt =>
    refine ⟨_, rfl, ?_⟩
    simp only [Instr.readsReg, Bool.or_eq_true, beq_iff_eq, forall_eq_or_imp, forall_eq] at hread
    simp only [exec, execLdImm, execAddImm, execLdReg, execOr, execAnd, execXor, execAddReg, execSub, execShr,
      execSubn, execShl, execRnd, execLdVxDt, hread, State.drawn_setReg, State.setReg_setReg _ r]
    exact ⟨_, rfl⟩
  | _ =>
    refine ⟨_, rfl, u, ?_⟩
    simp only [Instr.readsReg, Bool.or_eq_true, beq_iff_eq, forall_eq_or_imp, forall_eq] at hread
    simp only [exec, execSeImm, execSneImm, execSeReg, execSneReg, execJpV0, execLdDtVx, execLdStVx, execAddIVx,
      execLdFVx, hread]
    rfl

/-- Settles O30: a fault writes no register, and each effect only those of its column; the two runs of the "reads V" column
differ in the register itself. -/
theorem registerUseFollowsTable : Obligations.RegisterUseFollowsTable := by
  refine ⟨fun i s t r h hr => ?_, fun i s r u hr => ?_⟩
  · obtain ⟨f, info, -, rfl⟩ | hx := exec_executed h
    · rfl
    · exact reg_of_executed hx hr
  · obtain ⟨t, ht, w, ht'⟩ := exec_setReg hr s u
    exact ⟨t, _, ht, ht', rfl, fun q hq => by simp [hq]⟩

end Sys2Proof.Machine
end

section
/-! The keys, the reading ports and the waiting for a key. -/

namespace Sys2Proof.Machine

open Sys2Proof

/-- Settles O29: neither a fault, an executed instruction nor the tick writes a key state. -/
theorem keysWrittenOnlyByHost : Obligations.KeysWrittenOnlyByHost := by
  refine ⟨fun s t h => ?_, fun s k j b => ⟨State.keyDown_setKey s k j b, rfl⟩⟩
  obtain ⟨-, rfl⟩ | ⟨-, f, info, -, rfl⟩ | ⟨-, i, u, -, hx, rfl⟩ := step_cases h
  · rfl
  · rfl
  · rw [endStep_eq]
    obtain ⟨f, info, -, rfl⟩ | ⟨hkey, -⟩ := exec_cases hx
    · rfl
    · exact hkey

/-- Code 0 is the code of no fault alone (60_exceptions.md R220). -/
theorem FaultCode.code_eq_zero (f : FaultCode) : f.code = 0 ↔ f = .none := by
  cases f <;> decide

/-- Settles O57: the ports are read off the state, and a step answers 0 for the code of no fault alone. -/
theorem hostPortsRead : Obligations.HostPortsRead := by
  intro s
  have hsound : s.soundActive = true ↔ s.st.toNat ≠ 0 := by
    simp [State.soundActive, ← BitVec.toNat_inj]
  exact ⟨rfl, rfl, hsound, rfl, fun t _ => FaultCode.code_eq_zero t.faultCode⟩

/-- A core waits when it runs, fetches an FX0A and finds no key pressed (10_state.md R39). -/
theorem State.waiting_iff (s : State) :
    s.waiting = true ↔ (∃ x, s.fetchDecode = .ok (.ldVxK x)) ∧ s.halted = false ∧ s.selectKey = none := by
  unfold State.waiting
  split
  · next x hf => simp [hf]
  · next hne =>
    simp only [Bool.false_eq_true, false_iff]
    rintro ⟨⟨x, hf⟩, -⟩
    exact hne x hf

/-- The tick does not touch what waiting is read off (10_state.md R39). -/
theorem State.waiting_tick (s : State) : s.tick.waiting = s.waiting := rfl

/-- The step of a waiting core is a tick (44_keypad_timers.md R204). -/
theorem step_of_waiting {s : State} (h : s.waiting = true) : step s = .next s.tick := by
  obtain ⟨⟨x, hf⟩, hrun, hkey⟩ := (State.waiting_iff s).mp h
  have hexec : exec (.ldVxK x) s = .next s := by simp only [exec, execLdVxK, hkey]
  rw [step_of_fetch_ok hrun hf, hexec, endOutcome, endStep_of_running ((State.halted_eq_false s).mp hrun)]

/-- Settles O59: what waiting is read off is what `Fetches` and the keys say, and the waiting step's tick leaves it. -/
theorem waitingReadOffState : Obligations.WaitingReadOffState := by
  intro s
  refine ⟨?_, fun h => ⟨s.tick, step_of_waiting h, h⟩⟩
  rw [State.waiting_iff, State.halted_eq_false, State.selectKey_eq_none]
  simp only [fetchDecode_eq_ok_iff, Fetches]
  constructor
  · rintro ⟨⟨x, hp, hd⟩, hrun, hkeys⟩
    exact ⟨⟨x, hrun, hp, hd⟩, hkeys⟩
  · rintro ⟨⟨x, hrun, hp, hd⟩, hkeys⟩
    exact ⟨⟨x, hp, hd⟩, hrun, hkeys⟩

end Sys2Proof.Machine
end

section
/-! Memory: its canonical form, the reserved area with the font, who writes it, what the range checks find, and that the next
fetch sees a store (20_memory.md). -/

namespace Sys2Proof.Machine

open Sys2Proof

/-! ### The canonical form -/

/-- Settles O19: a step leaves memory or stores a run of bytes inside the address space, and such a store keeps the form. -/
theorem stepKeepsMemoryCanonical : Obligations.StepKeepsMemoryCanonical :=
  fun _ _ hw h => step_mem_wf hw h

/-- A state that differs in memory alone and reads the same everywhere is the same state, when both memories are in
canonical form. -/
theorem State.eq_of_sameBytes {s t : State} (ht : t = { s with mem := t.mem }) (hsw : s.mem.wf = true)
    (htw : t.mem.wf = true) (h : SameBytes s t) : t = s := by
  have hm : t.mem = s.mem := Memory.ext_of_wf htw hsw h
  calc t = { s with mem := t.mem } := ht
    _ = s := by rw [hm]

/-- A write inside the address space keeps the canonical form. -/
theorem State.writeByte_wf {s : State} (h : s.mem.wf = true) {a : Nat} (ha : a < 0x1000) (u : Byte) :
    (s.writeByte a u).mem.wf = true :=
  Memory.wf_write h ha u

/-- Settles O16: the two sides of each law read the same everywhere, so in canonical form they are equal. -/
theorem writesOrderedOnlyByAddress : Obligations.WritesOrderedOnlyByAddress := by
  refine fun s a b u w => ⟨State.readByte_writeByte s a b u, fun hw ha hb => ⟨?_, fun hab => ?_, ?_⟩⟩
  · refine State.eq_of_sameBytes rfl (State.writeByte_wf hw ha w)
      (State.writeByte_wf (State.writeByte_wf hw ha u) ha w) fun c => ?_
    simp only [State.readByte_writeByte]
    split_ifs <;> rfl
  · refine State.eq_of_sameBytes rfl (State.writeByte_wf (State.writeByte_wf hw hb w) ha u)
      (State.writeByte_wf (State.writeByte_wf hw ha u) hb w) fun c => ?_
    simp only [State.readByte_writeByte]
    split_ifs with hcb hca
    · exact absurd (hca.symm.trans hcb) hab
    all_goals rfl
  · refine State.eq_of_sameBytes rfl hw (State.writeByte_wf hw ha _) fun c => ?_
    rw [State.readByte_writeByte]
    split_ifs with hca
    · rw [hca]
    · rfl

/-! ### The reserved area and the font -/

/-- A load stores from 0x200 on, so it leaves the reserved area (70_reset_and_hazards.md R252). -/
theorem State.readByte_load_of_lt (s : State) (bytes : List Byte) {a : Nat} (ha : a < 0x200) :
    (s.load bytes).2.readByte a = s.readByte a := by
  unfold State.load
  split
  · rfl
  · exact State.readByte_writeBytes_of_lt s bytes ha

/-- The font lies at 0x050 to 0x09F, in the order of FONT (20_memory.md R61). -/
theorem unlistedByte_font {k : Nat} (hk : k < 80) : unlistedByte (0x050 + k) = fontTable.getD k 0 := by
  unfold unlistedByte
  rw [if_pos ⟨Nat.le_add_right .., Nat.add_lt_add_left hk _⟩, Nat.add_sub_cancel_left]

/-- Settles O20: by the host's moves; a step and a load store nothing below 0x200, and reset leaves the font there. -/
theorem reservedAreaImmutable : Obligations.ReservedAreaImmutable := by
  refine ⟨fun s t h a ha => step_readByte_of_lt h ha, fun op s t hop h a ha => ?_, fun s t h k hk => ?_⟩
  · cases op with
    | reset => exact absurd rfl hop
    | load bytes => cases next_inj h; exact State.readByte_load_of_lt s bytes ha
    | step => exact step_readByte_of_lt h ha
    | setKey k b => cases next_inj h; rfl
    | readDirty => cases next_inj h; rfl
  · cases next_inj h
    exact unlistedByte_font hk

/-- FONT is the glyphs one after the other, five rows each (20_memory.md R64). -/
theorem fontTable_getD_glyph : ∀ (d : Fin 16) (k : Fin 5),
    fontTable.getD (5 * d.val + k.val) 0 = (fontGlyphs.getD d.val []).getD k.val 0 := by
  decide

/-- A glyph is four pixels wide: the low half of each row is clear (20_memory.md R64). -/
theorem fontGlyphs_low_nibble : ∀ (d : Fin 16) (k : Fin 5),
    ((fontGlyphs.getD d.val []).getD k.val 0).toNat % 16 = 0 := by
  decide

/-- After reset the rows of glyph d lie from 0x050 + 5 * d on (20_memory.md R64). -/
theorem unlistedByte_glyph (d : Fin 16) (k : Fin 5) :
    unlistedByte (0x050 + 5 * d.val + k.val) = (fontGlyphs.getD d.val []).getD k.val 0 := by
  rw [Nat.add_assoc, unlistedByte_font (by omega), fontTable_getD_glyph]

/-- FX29's address for a digit (43_index_memory.md R183). -/
theorem glyphAddr_digit (d : Reg) : (glyphAddr (d.setWidth 8)).toNat = 0x050 + 5 * d.toNat := by
  rw [glyphAddr_toNat, BitVec.toNat_setWidth, Nat.mod_eq_of_lt (by omega)]

/-- Settles O56: the address that FX29 gives is where the rows of glyph d lie after reset. -/
theorem glyphOfDigit : Obligations.GlyphOfDigit := by
  intro d x k hk
  have hx : exec (.ldFVx x) (State.reset.setReg x (d.setWidth 8)) =
      .next ((State.reset.setReg x (d.setWidth 8)).setI (glyphAddr (d.setWidth 8))).advance := by
    rw [exec, execLdFVx, State.reg_setReg, if_pos rfl]
  have hrow : unlistedByte ((glyphAddr (d.setWidth 8)).toNat + k) = (fontGlyphs.getD d.toNat []).getD k 0 := by
    rw [glyphAddr_digit]
    exact unlistedByte_glyph ⟨d.toNat, d.isLt⟩ ⟨k, hk⟩
  have hlow := fontGlyphs_low_nibble ⟨d.toNat, d.isLt⟩ ⟨k, hk⟩
  rw [← hrow] at hlow
  exact ⟨_, hx, hrow, hlow⟩

/-! ### Who writes memory, and what the range checks find -/

/-- Settles O26: an execution that is not FX33 or FX55 leaves memory as it was. -/
theorem onlyStoresWriteMemory : Obligations.OnlyStoresWriteMemory := by
  rintro i s t h ⟨a, ha⟩
  obtain hm | ⟨us, -, -, -, hstore⟩ := exec_mem h
  · exact absurd (State.readByte_congr hm a) ha
  · exact hstore

/-- A range check that fails answers the fault of the first address that has one (20_memory.md R71). -/
theorem firstFault_eq_some {check : Nat → Option FaultCode} {a n : Nat} {f : FaultCode}
    (h : firstFault check a n = some f) :
    ∃ k, k < n ∧ check (a + k) = some f ∧ ∀ j, j < k → check (a + j) = none := by
  induction n generalizing a with
  | zero => cases h
  | succ n ih =>
    unfold firstFault at h
    split at h
    · next hc => exact ⟨0, Nat.succ_pos n, hc.trans h, fun j hj => absurd hj (Nat.not_lt_zero j)⟩
    · next hc =>
      obtain ⟨k, hk, hf, hbefore⟩ := ih h
      refine ⟨k + 1, Nat.succ_lt_succ hk, Nat.add_right_comm a 1 k ▸ hf, fun j hj => ?_⟩
      cases j with
      | zero => exact hc
      | succ j => exact Nat.add_right_comm a 1 j ▸ hbefore j (Nat.lt_of_succ_lt_succ hj)

/-- Settles O17: the range checks are `firstFault` on the addresses from I on. -/
theorem rangeCheckIsBytewise : Obligations.RangeCheckIsBytewise := fun s n =>
  ⟨firstFault_eq_none readFault s.i.toNat n, firstFault_eq_none writeFault s.i.toNat n,
    fun _ h => firstFault_eq_some h⟩

/-! ### A store and the next fetch -/

/-- A core that fetches an instruction executes it and ends the step (30_encoding.md R80). -/
theorem step_of_fetches {s : State} {i : Instr} (h : Fetches s i) : step s = endOutcome (exec i s) := by
  obtain ⟨hrun, hp, hd⟩ := h
  exact step_of_fetch_ok ((State.halted_eq_false s).mpr hrun) (fetchDecode_ok hp hd)

/-- The step of a core whose instruction raises no fault ends in the tick (30_encoding.md R80, R86). -/
theorem step_of_exec_running {s u : State} {i : Instr} (h : Fetches s i) (hx : exec i s = .next u)
    (hu : u.faultCode = .none) : step s = .next u.tick := by
  rw [step_of_fetches h, hx, endOutcome, endStep_of_running hu]

/-- A range inside 0x200 .. 0xFFF may be stored (20_memory.md R67). -/
theorem State.storeRangeFault_eq_none {s : State} {n : Nat} (hlo : 0x200 ≤ s.i.toNat)
    (hhi : s.i.toNat + n ≤ 0x1000) : s.storeRangeFault n = none := by
  refine (firstFault_eq_none writeFault s.i.toNat n).mpr fun k hk => ?_
  rw [writeFault, if_neg (by omega), if_neg (by simp only [Config.progBase]; omega)]

/-- After a step that stores bytes and advances, the word at the new pc is made of the bytes as the store left them, and the
next step executes what it decodes to (20_memory.md R74). -/
theorem step_of_store {s : State} {i : Instr} {us : List Byte} (hf : Fetches s i)
    (hx : exec i s = .next (s.writeBytes s.i.toNat us).advance) :
    ∃ t, step s = .next t ∧ t.pc = s.pc + 2 ∧
      t.fetchWord = wordOfBytes ((s.writeBytes s.i.toNat us).readByte (s.pc.toNat + 2))
        ((s.writeBytes s.i.toNat us).readByte (s.pc.toNat + 3)) ∧
      ∀ j, t.pc.toNat ≤ 0xFFE → decode t.fetchWord = .ok j → step t = endOutcome (exec j t) := by
  have ⟨hrun, hp, _⟩ := hf
  have hu : (s.writeBytes s.i.toNat us).advance.faultCode = .none := by simpa using hrun
  have hpc : (s.writeBytes s.i.toNat us).advance.pc = s.pc + 2 := by simp
  have hnum : (s.pc + 2).toNat = s.pc.toNat + 2 := by bv_omega
  refine ⟨_, step_of_exec_running hf hx hu, hpc, ?_, fun j hj hd => step_of_fetches ⟨hu, hj, hd⟩⟩
  rw [State.fetchWord, State.tick_pc, hpc, hnum]
  rfl

/-- Settles O18: FX55 and FX33 with a range that may be stored are two stores of a run of bytes. -/
theorem storeSeenByNextFetch : Obligations.StoreSeenByNextFetch := by
  refine fun s x hlo => ⟨fun hf hhi => ?_, fun hf hhi => ?_⟩
  · have hx : exec (.ldMemVx x) s = .next (s.writeBytes s.i.toNat (s.regsUpTo x)).advance := by
      simp only [exec, execLdMemVx, State.storeRangeFault_eq_none (n := x.toNat + 1) hlo (by omega)]
      rfl
    have h := step_of_store hf hx
    rw [State.readByte_storeRegs, State.readByte_storeRegs] at h
    exact h
  · have hx : exec (.ldBVx x) s = .next (s.writeBytes s.i.toNat (bcdDigits (s.reg x))).advance := by
      simp only [exec, execLdBVx, State.storeRangeFault_eq_none (n := 3) hlo (by omega)]
      rfl
    have h := step_of_store hf hx
    rw [State.readByte_storeDigits, State.readByte_storeDigits] at h
    exact h

end Sys2Proof.Machine
end

section
/-! The fields of a word: their values, that a word is what its fields say, and what each extraction reads of each operand
that an encoding places (30_encoding.md R87, R88). -/

namespace Sys2Proof

/-! ### The fields as numbers -/

theorem opField_toNat (w : Word) : (opField w).toNat = w.toNat / 4096 := by
  simp only [opField, BitVec.extractLsb'_toNat, Nat.shiftRight_eq_div_pow]
  omega

theorem xField_toNat (w : Word) : (xField w).toNat = w.toNat / 256 % 16 := by
  simp only [xField, BitVec.extractLsb'_toNat, Nat.shiftRight_eq_div_pow, Nat.reducePow]

theorem yField_toNat (w : Word) : (yField w).toNat = w.toNat / 16 % 16 := by
  simp only [yField, BitVec.extractLsb'_toNat, Nat.shiftRight_eq_div_pow, Nat.reducePow]

theorem nField_toNat (w : Word) : (nField w).toNat = w.toNat % 16 := by
  simp only [nField, BitVec.extractLsb'_toNat, Nat.shiftRight_zero, Nat.reducePow]

theorem nnField_toNat (w : Word) : (nnField w).toNat = w.toNat % 256 := by
  simp only [nnField, BitVec.extractLsb'_toNat, Nat.shiftRight_zero, Nat.reducePow]

theorem nnnField_toNat (w : Word) : (nnnField w).toNat = w.toNat % 4096 := by
  simp only [nnnField, BitVec.extractLsb'_toNat, Nat.shiftRight_zero, Nat.reducePow]

/-- Settles O4: each field is a quotient and a remainder by powers of two. -/
theorem wordFieldsExtracted : Obligations.WordFieldsExtracted := fun w =>
  ⟨opField_toNat w, xField_toNat w, yField_toNat w, nField_toNat w, nnField_toNat w, nnnField_toNat w⟩

/-! ### A word is its fields -/

/-- The format `op NNN`. -/
theorem word_ext_nnn {a b : Word} (hop : (opField a).toNat = (opField b).toNat)
    (hnnn : (nnnField a).toNat = (nnnField b).toNat) : a = b := by
  rw [opField_toNat, opField_toNat] at hop
  rw [nnnField_toNat, nnnField_toNat] at hnnn
  exact BitVec.eq_of_toNat_eq (by omega)

/-- The format `op X NN`. -/
theorem word_ext_xnn {a b : Word} (hop : (opField a).toNat = (opField b).toNat)
    (hx : (xField a).toNat = (xField b).toNat) (hnn : (nnField a).toNat = (nnField b).toNat) : a = b := by
  rw [opField_toNat, opField_toNat] at hop
  rw [xField_toNat, xField_toNat] at hx
  rw [nnField_toNat, nnField_toNat] at hnn
  exact BitVec.eq_of_toNat_eq (by omega)

/-- The format `op X Y N`. -/
theorem word_ext_xyn {a b : Word} (hop : (opField a).toNat = (opField b).toNat)
    (hx : (xField a).toNat = (xField b).toNat) (hy : (yField a).toNat = (yField b).toNat)
    (hn : (nField a).toNat = (nField b).toNat) : a = b := by
  rw [opField_toNat, opField_toNat] at hop
  rw [xField_toNat, xField_toNat] at hx
  rw [yField_toNat, yField_toNat] at hy
  rw [nField_toNat, nField_toNat] at hn
  exact BitVec.eq_of_toNat_eq (by omega)

/-! ### The fields of words joined or masked bit by bit, and of a literal -/

@[simp] theorem opField_or (a b : Word) : opField (a ||| b) = opField a ||| opField b := BitVec.extractLsb'_or
@[simp] theorem xField_or (a b : Word) : xField (a ||| b) = xField a ||| xField b := BitVec.extractLsb'_or
@[simp] theorem yField_or (a b : Word) : yField (a ||| b) = yField a ||| yField b := BitVec.extractLsb'_or
@[simp] theorem nField_or (a b : Word) : nField (a ||| b) = nField a ||| nField b := BitVec.extractLsb'_or
@[simp] theorem nnField_or (a b : Word) : nnField (a ||| b) = nnField a ||| nnField b := BitVec.extractLsb'_or
@[simp] theorem nnnField_or (a b : Word) : nnnField (a ||| b) = nnnField a ||| nnnField b := BitVec.extractLsb'_or
@[simp] theorem opField_and (a b : Word) : opField (a &&& b) = opField a &&& opField b := BitVec.extractLsb'_and
@[simp] theorem nField_and (a b : Word) : nField (a &&& b) = nField a &&& nField b := BitVec.extractLsb'_and
@[simp] theorem nnField_and (a b : Word) : nnField (a &&& b) = nnField a &&& nnField b := BitVec.extractLsb'_and

@[simp] theorem opField_ofNat (k : Nat) : opField (BitVec.ofNat 16 k) = BitVec.ofNat 4 (k / 4096) :=
  BitVec.eq_of_toNat_eq (by simp only [opField_toNat, BitVec.toNat_ofNat]; omega)

@[simp] theorem xField_ofNat (k : Nat) : xField (BitVec.ofNat 16 k) = BitVec.ofNat 4 (k / 256) :=
  BitVec.eq_of_toNat_eq (by simp only [xField_toNat, BitVec.toNat_ofNat]; omega)

@[simp] theorem yField_ofNat (k : Nat) : yField (BitVec.ofNat 16 k) = BitVec.ofNat 4 (k / 16) :=
  BitVec.eq_of_toNat_eq (by simp only [yField_toNat, BitVec.toNat_ofNat]; omega)

@[simp] theorem nField_ofNat (k : Nat) : nField (BitVec.ofNat 16 k) = BitVec.ofNat 4 k :=
  BitVec.eq_of_toNat_eq (by simp only [nField_toNat, BitVec.toNat_ofNat]; omega)

@[simp] theorem nnField_ofNat (k : Nat) : nnField (BitVec.ofNat 16 k) = BitVec.ofNat 8 k :=
  BitVec.eq_of_toNat_eq (by simp only [nnField_toNat, BitVec.toNat_ofNat]; omega)

@[simp] theorem nnnField_ofNat (k : Nat) : nnnField (BitVec.ofNat 16 k) = BitVec.ofNat 12 k :=
  BitVec.eq_of_toNat_eq (by simp only [nnnField_toNat, BitVec.toNat_ofNat]; omega)

/-! ### The fields of a placed operand -/

theorem putX_toNat (x : Reg) : (putX x).toNat = x.toNat * 256 := by
  simp only [putX, BitVec.toNat_shiftLeft, BitVec.toNat_setWidth, Nat.shiftLeft_eq]
  omega

theorem putY_toNat (y : Reg) : (putY y).toNat = y.toNat * 16 := by
  simp only [putY, BitVec.toNat_shiftLeft, BitVec.toNat_setWidth, Nat.shiftLeft_eq]
  omega

theorem putN_toNat (n : Nibble) : (putN n).toNat = n.toNat :=
  BitVec.toNat_setWidth_of_le (by decide)

theorem putNN_toNat (nn : Byte) : (putNN nn).toNat = nn.toNat :=
  BitVec.toNat_setWidth_of_le (by decide)

theorem putNNN_toNat (nnn : Addr) : (putNNN nnn).toNat = nnn.toNat :=
  BitVec.toNat_setWidth_of_le (by decide)

@[simp] theorem opField_putX (x : Reg) : opField (putX x) = 0 :=
  BitVec.eq_of_toNat_eq (by simp only [opField_toNat, putX_toNat, BitVec.ofNat_eq_ofNat, BitVec.toNat_zero]; omega)

@[simp] theorem opField_putY (y : Reg) : opField (putY y) = 0 :=
  BitVec.eq_of_toNat_eq (by simp only [opField_toNat, putY_toNat, BitVec.ofNat_eq_ofNat, BitVec.toNat_zero]; omega)

@[simp] theorem opField_putN (n : Nibble) : opField (putN n) = 0 :=
  BitVec.eq_of_toNat_eq (by simp only [opField_toNat, putN_toNat, BitVec.ofNat_eq_ofNat, BitVec.toNat_zero]; omega)

@[simp] theorem opField_putNN (nn : Byte) : opField (putNN nn) = 0 :=
  BitVec.eq_of_toNat_eq (by simp only [opField_toNat, putNN_toNat, BitVec.ofNat_eq_ofNat, BitVec.toNat_zero]; omega)

@[simp] theorem opField_putNNN (nnn : Addr) : opField (putNNN nnn) = 0 :=
  BitVec.eq_of_toNat_eq (by simp only [opField_toNat, putNNN_toNat, BitVec.ofNat_eq_ofNat, BitVec.toNat_zero]; omega)

@[simp] theorem xField_putX (x : Reg) : xField (putX x) = x :=
  BitVec.eq_of_toNat_eq (by simp only [xField_toNat, putX_toNat]; omega)

@[simp] theorem xField_putY (y : Reg) : xField (putY y) = 0 :=
  BitVec.eq_of_toNat_eq (by simp only [xField_toNat, putY_toNat, BitVec.ofNat_eq_ofNat, BitVec.toNat_zero]; omega)

@[simp] theorem xField_putN (n : Nibble) : xField (putN n) = 0 :=
  BitVec.eq_of_toNat_eq (by simp only [xField_toNat, putN_toNat, BitVec.ofNat_eq_ofNat, BitVec.toNat_zero]; omega)

@[simp] theorem xField_putNN (nn : Byte) : xField (putNN nn) = 0 :=
  BitVec.eq_of_toNat_eq (by simp only [xField_toNat, putNN_toNat, BitVec.ofNat_eq_ofNat, BitVec.toNat_zero]; omega)

@[simp] theorem yField_putX (x : Reg) : yField (putX x) = 0 :=
  BitVec.eq_of_toNat_eq (by simp only [yField_toNat, putX_toNat, BitVec.ofNat_eq_ofNat, BitVec.toNat_zero]; omega)

@[simp] theorem yField_putY (y : Reg) : yField (putY y) = y :=
  BitVec.eq_of_toNat_eq (by simp only [yField_toNat, putY_toNat]; omega)

@[simp] theorem yField_putN (n : Nibble) : yField (putN n) = 0 :=
  BitVec.eq_of_toNat_eq (by simp only [yField_toNat, putN_toNat, BitVec.ofNat_eq_ofNat, BitVec.toNat_zero]; omega)

@[simp] theorem nField_putX (x : Reg) : nField (putX x) = 0 :=
  BitVec.eq_of_toNat_eq (by simp only [nField_toNat, putX_toNat, BitVec.ofNat_eq_ofNat, BitVec.toNat_zero]; omega)

@[simp] theorem nField_putY (y : Reg) : nField (putY y) = 0 :=
  BitVec.eq_of_toNat_eq (by simp only [nField_toNat, putY_toNat, BitVec.ofNat_eq_ofNat, BitVec.toNat_zero]; omega)

@[simp] theorem nField_putN (n : Nibble) : nField (putN n) = n :=
  BitVec.eq_of_toNat_eq (by simp only [nField_toNat, putN_toNat]; omega)

@[simp] theorem nnField_putX (x : Reg) : nnField (putX x) = 0 :=
  BitVec.eq_of_toNat_eq (by simp only [nnField_toNat, putX_toNat, BitVec.ofNat_eq_ofNat, BitVec.toNat_zero]; omega)

@[simp] theorem nnField_putNN (nn : Byte) : nnField (putNN nn) = nn :=
  BitVec.eq_of_toNat_eq (by simp only [nnField_toNat, putNN_toNat]; omega)

@[simp] theorem nnnField_putNNN (nnn : Addr) : nnnField (putNNN nnn) = nnn :=
  BitVec.eq_of_toNat_eq (by simp only [nnnField_toNat, putNNN_toNat]; omega)

end Sys2Proof
end

section
/-! Decode and encode are inverse to each other (30_encoding.md R83, R84). -/

namespace Sys2Proof

/-! ### Decoding an encoding -/

/-- Decoding reads back what the encoding placed; the cases go by the branch of the decoder they take (R91). -/
theorem decode_encode (i : Instr) : decode (encode i) = .ok i := by
  cases i with
  | cls | ret => rfl
  | jp | call | ldI | jpV0 => simp [encode, decode]
  | seImm | sneImm | ldImm | addImm | rnd => simp [encode, decode]
  | seReg | sneReg | drw => simp [encode, decode]
  | ldReg | orReg | andReg | xorReg | addReg | sub | shr | subn | shl => simp [encode, decode, decode8]
  | skp | sknp => simp [encode, decode, decodeE]
  | ldVxDt | ldVxK | ldDtVx | ldStVx | addIVx | ldFVx | ldBVx | ldMemVx | ldVxMem => simp [encode, decode, decodeF]

theorem hiByte_toNat (w : Word) : (hiByte w).toNat = w.toNat / 256 := by
  simp only [hiByte, BitVec.extractLsb'_toNat, Nat.shiftRight_eq_div_pow]
  omega

theorem loByte_toNat (w : Word) : (loByte w).toNat = w.toNat % 256 := by
  simp only [loByte, BitVec.extractLsb'_toNat, Nat.shiftRight_zero, Nat.reducePow]

@[simp] theorem wordOfBytes_hiByte_loByte (w : Word) : wordOfBytes (hiByte w) (loByte w) = w :=
  BitVec.eq_of_toNat_eq (by rw [Machine.wordOfBytes_toNat, hiByte_toNat, loByte_toNat]; omega)

@[simp] theorem hiByte_wordOfBytes (hi lo : Byte) : hiByte (wordOfBytes hi lo) = hi :=
  BitVec.eq_of_toNat_eq (by rw [hiByte_toNat, Machine.wordOfBytes_toNat]; omega)

@[simp] theorem loByte_wordOfBytes (hi lo : Byte) : loByte (wordOfBytes hi lo) = lo :=
  BitVec.eq_of_toNat_eq (by rw [loByte_toNat, Machine.wordOfBytes_toNat]; omega)

/-- The two bytes of an instruction in front of others decode to it and leave the others (30_encoding.md R87). -/
theorem decodeBytes_encodeBytes (i : Instr) (rest : List Byte) :
    decodeBytes (encodeBytes i ++ rest) = .ok (i, rest) := by
  simp only [encodeBytes, List.cons_append, List.nil_append, decodeBytes, wordOfBytes_hiByte_loByte, decode_encode]

/-- Settles O1, by the fields of each encoding; two bytes in front of others are joined to the word they were taken from. -/
theorem decodeEncodeRoundTrip : Obligations.DecodeEncodeRoundTrip := fun i rest =>
  ⟨decode_encode i, decodeBytes_encodeBytes i rest⟩

/-- Settles O6: each of the words is the encoding of its instruction. -/
theorem specWordsDecode : Obligations.SpecWordsDecode :=
  ⟨decode_encode .cls, decode_encode (.drw 1 2 5), decode_encode .ret, decode_encode (.call 0x345),
    decode_encode (.sneReg 0xA 0xB), decode_encode (.sub 0xA 0xB), decode_encode (.shl 0xA 0xB),
    decode_encode (.rnd 3 0x0F), decode_encode (.ldI 0x123), decode_encode (.ldBVx 2), decode_encode (.sknp 4),
    decode_encode (.ldVxK 5)⟩

/-! ### Encoding what a word decodes to -/

theorem encode_of_decode0 {w : Word} {i : Instr} (h : decode0 w = .ok i) : encode i = w := by
  unfold decode0 at h
  split_ifs at h with hcls hret <;> cases h
  · exact hcls.symm
  · exact hret.symm

theorem encode_of_decode8 {w : Word} {i : Instr} (hop : (opField w).toNat = 8) (h : decode8 w = .ok i) :
    encode i = w := by
  unfold decode8 at h
  split at h <;> cases h
  all_goals
    rename_i hn
    exact word_ext_xyn (by simp [encode, hop]) (by simp [encode]) (by simp [encode]) (by simp [encode, hn])

theorem encode_of_decodeE {w : Word} {i : Instr} (hop : (opField w).toNat = 0xE) (h : decodeE w = .ok i) :
    encode i = w := by
  unfold decodeE at h
  split at h <;> cases h
  all_goals
    rename_i hnn
    exact word_ext_xnn (by simp [encode, hop]) (by simp [encode]) (by simp [encode, hnn])

theorem encode_of_decodeF {w : Word} {i : Instr} (hop : (opField w).toNat = 0xF) (h : decodeF w = .ok i) :
    encode i = w := by
  unfold decodeF at h
  split at h <;> cases h
  all_goals
    rename_i hnn
    exact word_ext_xnn (by simp [encode, hop]) (by simp [encode]) (by simp [encode, hnn])

/-- Settles O2, by the families of 30_encoding.md R91: what a branch answers is encoded with the branch's op and with the
word's own fields. -/
theorem encodeOfDecodedWord : Obligations.EncodeOfDecodedWord := by
  intro w i h
  unfold decode at h
  split at h <;> rename_i hop
  -- op = 0x0, 0x8, 0xE, 0xF: the families with a decoder of their own
  case h_1 => exact encode_of_decode0 h
  case h_9 => exact encode_of_decode8 hop h
  case h_15 => exact encode_of_decodeE hop h
  case h_16 => exact encode_of_decodeF hop h
  -- op = 0x1, 0x2, 0xA, 0xB
  case h_2 | h_3 | h_11 | h_12 =>
    cases h
    exact word_ext_nnn (by simp [encode, hop]) (by simp [encode])
  -- op = 0x3, 0x4, 0x6, 0x7, 0xC
  case h_4 | h_5 | h_7 | h_8 | h_13 =>
    cases h
    exact word_ext_xnn (by simp [encode, hop]) (by simp [encode]) (by simp [encode])
  -- op = 0xD
  case h_14 =>
    cases h
    exact word_ext_xyn (by simp [encode, hop]) (by simp [encode]) (by simp [encode]) (by simp [encode])
  -- op = 0x5, 0x9
  case h_6 | h_10 =>
    split at h <;> cases h
    rename_i hn
    exact word_ext_xyn (by simp [encode, hop]) (by simp [encode]) (by simp [encode]) (by simp [encode, hn])
  case h_17 => cases h

end Sys2Proof
end

section
/-! The decoder and the opcode table: which words are illegal (30_encoding.md R96), and that the decoder answers the one row
that matches (R84, R90). -/

namespace Sys2Proof

/-! ### The words that the decoder rejects -/

/-- The table of 30_encoding.md R96, over the fields of the word. `decode_eq_illegal_iff` ties it to the decoder. -/
abbrev IllegalWord (w : Word) : Prop :=
  ((opField w).toNat = 0x0 ∧ w ≠ 0x00E0 ∧ w ≠ 0x00EE) ∨
  ((opField w).toNat = 0x5 ∧ (nField w).toNat ≠ 0) ∨
  ((opField w).toNat = 0x8 ∧ (nField w).toNat ∈ [0x8, 0x9, 0xA, 0xB, 0xC, 0xD, 0xF]) ∨
  ((opField w).toNat = 0x9 ∧ (nField w).toNat ≠ 0) ∨
  ((opField w).toNat = 0xE ∧ (nnField w).toNat ∉ [0x9E, 0xA1]) ∨
  ((opField w).toNat = 0xF ∧ (nnField w).toNat ∉ [0x07, 0x0A, 0x15, 0x18, 0x1E, 0x29, 0x33, 0x55, 0x65])

/-- The decoder answers an instruction or the word itself as illegal. -/
theorem decode_total (w : Word) : (∃ i, decode w = .ok i) ∨ decode w = .error (.illegal w) := by
  unfold decode decode0 decode8 decodeE decodeF
  repeat' split
  all_goals simp

theorem decode0_eq_illegal_iff (w : Word) :
    decode0 w = .error (.illegal w) ↔ w ≠ 0x00E0 ∧ w ≠ 0x00EE := by
  unfold decode0
  split_ifs <;> simp_all

theorem decode8_eq_illegal_iff (w : Word) :
    decode8 w = .error (.illegal w) ↔ (nField w).toNat ∈ [0x8, 0x9, 0xA, 0xB, 0xC, 0xD, 0xF] := by
  unfold decode8
  split
  case h_10 => simp only [imp_false] at *; simp; omega
  all_goals simp_all

theorem decodeE_eq_illegal_iff (w : Word) :
    decodeE w = .error (.illegal w) ↔ (nnField w).toNat ∉ [0x9E, 0xA1] := by
  unfold decodeE
  split <;> simp_all

theorem decodeF_eq_illegal_iff (w : Word) :
    decodeF w = .error (.illegal w) ↔
      (nnField w).toNat ∉ [0x07, 0x0A, 0x15, 0x18, 0x1E, 0x29, 0x33, 0x55, 0x65] := by
  unfold decodeF
  split <;> simp_all

/-- The decoder rejects exactly the words of 30_encoding.md R96, family by family. -/
theorem decode_eq_illegal_iff (w : Word) : decode w = .error (.illegal w) ↔ IllegalWord w := by
  unfold decode IllegalWord
  split
  -- op = 0x0, 0x8, 0xE, 0xF, then 0x5 and 0x9; in the families that are left every word decodes
  case h_1 hop => simp [hop, decode0_eq_illegal_iff]
  case h_9 hop => simp [hop, decode8_eq_illegal_iff]
  case h_15 hop => simp [hop, decodeE_eq_illegal_iff]
  case h_16 hop => simp [hop, decodeF_eq_illegal_iff]
  case h_6 hop | h_10 hop => simp [hop, ← BitVec.toNat_inj]
  case h_17 => simp only [imp_false] at *; omega
  all_goals
    next hop => simp [hop]

/-- Settles O5: the table of illegal words, with the fields as numbers. -/
theorem illegalWordsAreExactly : Obligations.IllegalWordsAreExactly := fun w =>
  ⟨by simpa only [IllegalWord, opField_toNat, nField_toNat, nnField_toNat] using decode_eq_illegal_iff w,
    decode_total w⟩

/-! ### The rows of the opcode table -/

/-- A word that a row matches agrees with the row's bits in every field that the row's mask covers whole. -/
theorem fields_of_matchesWord {r : OpcodeRow} {w : Word} (h : r.matchesWord w = true) :
    (opField r.mask = 0xF → opField w = opField r.bits) ∧ (nField r.mask = 0xF → nField w = nField r.bits) ∧
      (nnField r.mask = 0xFF → nnField w = nnField r.bits) ∧ (r.mask = 0xFFFF → w = r.bits) := by
  have hbits : w &&& r.mask = r.bits := eq_of_beq h
  refine ⟨fun hm => ?_, fun hm => ?_, fun hm => ?_, fun hm => ?_⟩
  · rw [← hbits, opField_and, hm]; exact BitVec.and_allOnes.symm
  · rw [← hbits, nField_and, hm]; exact BitVec.and_allOnes.symm
  · rw [← hbits, nnField_and, hm]; exact BitVec.and_allOnes.symm
  · rw [← hbits, hm]; exact BitVec.and_allOnes.symm

/-- Every row fixes op, and its mask covers the field by which the family of R91 tells instructions apart. -/
theorem opcodeTable_masks : ∀ r ∈ opcodeTable, opField r.mask = 0xF ∧
    ((opField r.bits).toNat = 0x0 → r.mask = 0xFFFF) ∧
    ((opField r.bits).toNat ∈ [0x5, 0x8, 0x9] → nField r.mask = 0xF) ∧
    ((opField r.bits).toNat ∈ [0xE, 0xF] → nnField r.mask = 0xFF) := by decide

/-- The fixed bits of a row are no word of 30_encoding.md R96. -/
theorem opcodeTable_bits_legal : ∀ r ∈ opcodeTable, ¬ IllegalWord r.bits := by decide

/-- Two rows that agree on the bits that both fix are one row: the spec's check of 30_encoding.md R90. -/
theorem opcodeTable_unique : ∀ r ∈ opcodeTable, ∀ q ∈ opcodeTable,
    r.bits &&& q.mask = q.bits &&& r.mask → q = r := by decide

/-- A word that a row matches has the row's bits in the fields that decide legality, and those bits are legal. -/
theorem not_illegalWord_of_matchesWord {r : OpcodeRow} {w : Word} (hr : r ∈ opcodeTable)
    (h : r.matchesWord w = true) : ¬ IllegalWord w := by
  obtain ⟨hop, hn, hnn, hw⟩ := fields_of_matchesWord h
  obtain ⟨m, m0, mn, mnn⟩ := opcodeTable_masks r hr
  have hop := hop m
  intro hill
  refine opcodeTable_bits_legal r hr ?_
  simp only [IllegalWord, hop] at hill
  refine hill.imp ?_ <| Or.imp ?_ <| Or.imp ?_ <| Or.imp ?_ <| Or.imp ?_ ?_ <;> rintro ⟨hfam, hrest⟩
  case refine_1 => exact ⟨hfam, hw (m0 hfam) ▸ hrest⟩
  case refine_2 | refine_3 | refine_4 => exact ⟨hfam, hn (mn (by simp [hfam])) ▸ hrest⟩
  case refine_5 | refine_6 => exact ⟨hfam, hnn (mnn (by simp [hfam])) ▸ hrest⟩

/-- Only one row of the table matches a word (30_encoding.md R84). -/
theorem eq_of_matchesWord {r q : OpcodeRow} {w : Word} (hr : r ∈ opcodeTable) (hq : q ∈ opcodeTable)
    (hrw : r.matchesWord w = true) (hqw : q.matchesWord w = true) : q = r := by
  have hrb : w &&& r.mask = r.bits := eq_of_beq hrw
  have hqb : w &&& q.mask = q.bits := eq_of_beq hqw
  refine opcodeTable_unique r hr q hq ?_
  rw [← hrb, ← hqb, BitVec.and_assoc, BitVec.and_assoc, BitVec.and_comm r.mask]

open Laws.EncodingRow in
/-- Every instruction's word is matched by the row of its pattern. -/
theorem encodingRow (i : Instr) : Statement i := by
  cases i
  exacts [cls, ret, jp _, call _, seImm _ _, sneImm _ _, seReg _ _, ldImm _ _, addImm _ _, ldReg _ _, orReg _ _,
    andReg _ _, xorReg _ _, addReg _ _, sub _ _, shr _ _, subn _ _, shl _ _, sneReg _ _, ldI _, jpV0 _, rnd _ _,
    drw _ _ _, skp _, sknp _, ldVxDt _, ldVxK _, ldDtVx _, ldStVx _, addIVx _, ldFVx _, ldBVx _, ldMemVx _, ldVxMem _]

/-- The decoder rejects exactly the words that no row of the table matches (30_encoding.md R84, R96). -/
theorem decode_eq_illegal_iff_no_row (w : Word) :
    decode w = .error (.illegal w) ↔ ∀ r ∈ opcodeTable, r.matchesWord w = false := by
  rw [decode_eq_illegal_iff]
  refine ⟨fun hill r hr => ?_, fun hno => ?_⟩
  · cases h : r.matchesWord w with
    | false => rfl
    | true => exact absurd hill (not_illegalWord_of_matchesWord hr h)
  · obtain ⟨i, hi⟩ | herr := decode_total w
    · obtain ⟨r, hr, -, hm⟩ := encodingRow i
      rw [encodeOfDecodedWord w i hi, hno r hr] at hm
      cases hm
    · exact (decode_eq_illegal_iff w).mp herr

/-- Settles O3: what the decoder answers encodes to the word, and every encoding lies in its instruction's row. -/
theorem decodeFollowsOpcodeTable : Obligations.DecodeFollowsOpcodeTable := by
  refine fun w => ⟨fun i hi => ?_, decode_eq_illegal_iff_no_row w, fun ⟨r, hr, hm⟩ => ?_⟩
  · have henc : encode i = w := encodeOfDecodedWord w i hi
    obtain ⟨r, hr, hp, hm⟩ := encodingRow i
    rw [henc] at hm
    exact ⟨henc, r, hr, hm, hp, fun q hq hqw => eq_of_matchesWord hr hq hm hqw⟩
  · exact (decode_total w).resolve_right fun herr =>
      not_illegalWord_of_matchesWord hr hm ((decode_eq_illegal_iff w).mp herr)

end Sys2Proof
end

section
/-! The step around the execution: fetch, the two faults before execution, the halted core and the tick (30_encoding.md R80
to R86, R96). -/

namespace Sys2Proof.Machine

open Sys2Proof

/-! ### Fetch, decode, execute, tick -/

/-- The fetched word is the big-endian number of the two bytes at pc (30_encoding.md R83). -/
theorem fetchWord_toNat (s : State) :
    s.fetchWord.toNat = (s.readByte s.pc.toNat).toNat * 256 + (s.readByte (s.pc.toNat + 1)).toNat :=
  wordOfBytes_toNat _ _

/-- Settles O8: the fetched word is the two bytes, the first of them high. -/
theorem fetchIsBigEndian : Obligations.FetchIsBigEndian := fun s =>
  ⟨fetchWord_toNat s, hiByte_wordOfBytes .., loByte_wordOfBytes ..⟩

/-- Settles O7: the number of the two bytes is the fetched word, and the end of the step ticks a running core alone. -/
theorem stepRunsDecodedInstruction : Obligations.StepRunsDecodedInstruction := by
  intro s t i hs hp hd hx
  rw [← fetchWord_toNat, BitVec.ofNat_toNat, BitVec.setWidth_eq] at hd
  rw [step_of_fetches ⟨hs, hp, hd⟩, hx, endOutcome]
  split
  · next ht => rw [endStep_of_running ht]
  · next ht => rw [endStep_of_fault ht]

/-! ### The halted core and the faults before execution -/

/-- A load leaves FAULT_CODE (70_reset_and_hazards.md R252). -/
@[simp] theorem State.load_faultCode (s : State) (bytes : List Byte) : (s.load bytes).2.faultCode = s.faultCode := by
  unfold State.load
  split
  · rfl
  · exact State.writeBytes_faultCode ..

/-- Settles O9, by the moves of the host. -/
theorem haltedCoreStaysHalted : Obligations.HaltedCoreStaysHalted := by
  intro s hs
  have hstep : step s = .next s := step_of_halted ((State.halted_eq_true s).mpr hs)
  refine ⟨hstep, rfl, mt (FaultCode.code_eq_zero _).mp hs, fun op t hop h => ?_, s.hostReset, rfl, rfl⟩
  cases op with
  | reset => exact absurd rfl hop
  | load bytes => cases next_inj h; exact State.load_faultCode s bytes
  | step => cases next_inj (hstep.symm.trans h); rfl
  | setKey k b => cases next_inj h; rfl
  | readDirty => cases next_inj h; rfl

/-- Settles O10: the bound on pc is the one check before the word is decoded. -/
theorem fetchBoundsFault : Obligations.FetchBoundsFault := by
  refine fun s hs => ⟨fun hp => ?_, fun hp i hd => step_of_fetches ⟨hs, hp, hd⟩⟩
  have hf : s.fetchDecode = .error (.fetchBounds, s.pc) := if_pos hp
  exact step_of_fetch_error ((State.halted_eq_false s).mpr hs) hf

/-- A word is ill-formed when no row of the table matches it (30_encoding.md R96). -/
theorem wellFormedWord_eq_false (w : Word) :
    WellFormedWord w = false ↔ ∀ r ∈ opcodeTable, r.matchesWord w = false :=
  List.any_eq_false.trans (by simp only [Bool.not_eq_true])

/-- A fetchable word that the decoder rejects is the fault ILLEGAL_OPCODE with the word (30_encoding.md R96). -/
theorem fetchDecode_of_illegal {s : State} (hp : s.pc.toNat ≤ 0xFFE)
    (hd : decode s.fetchWord = .error (.illegal s.fetchWord)) :
    s.fetchDecode = .error (.illegalOpcode, s.fetchWord) := by
  rw [State.fetchDecode, if_neg (by omega), hd]

/-- Settles O11: a word outside the table is one that the decoder rejects. -/
theorem illegalOpcodeFault : Obligations.IllegalOpcodeFault := by
  refine ⟨fun s hs hp hw => ?_, by decide⟩
  have hd : decode s.fetchWord = .error (.illegal s.fetchWord) :=
    (decode_eq_illegal_iff_no_row _).mpr ((wellFormedWord_eq_false _).mp hw)
  exact step_of_fetch_error ((State.halted_eq_false s).mpr hs) (fetchDecode_of_illegal hp hd)

/-! ### The timers -/

/-- Settles O15: no instruction but FX15 and FX18 writes a timer, and the tick takes one from each. -/
theorem timersTickWhateverRuns : Obligations.TimersTickWhateverRuns := by
  intro s t i hf h ht
  obtain ⟨hs, hp, hd⟩ := hf
  obtain ⟨f, info, hne, rfl⟩ | ⟨j, u, hj, hx, -, rfl⟩ := step_cases_of_running hs h
  · exact absurd ht hne
  · obtain rfl : i = j := Except.ok.inj ((fetchDecode_ok hp hd).symm.trans hj)
    obtain ⟨-, hdt, hst⟩ := specialRegisterWriters i s u hx
    rw [State.tick_dt, State.tick_st, tickTimer_toNat, tickTimer_toNat]
    refine ⟨fun hi => ?_, fun hi => ?_⟩
    · rw [not_imp_comm.mp hdt fun ⟨x, hx⟩ => hi x hx]
    · rw [not_imp_comm.mp hst fun ⟨x, hx⟩ => hi x hx]

end Sys2Proof.Machine
end

section
/-! The display: 00E0 and DXYN, and that no other instruction draws (40_display.md). -/

namespace Sys2Proof.Machine

open Sys2Proof

/-! ### Who draws -/

/-- An execution keeps the frame buffer and the redraw flag, or its instruction is 00E0 or DXYN (40_display.md R110). -/
theorem display_kept_or_draws {i : Instr} {s t : State} (h : exec i s = .next t) :
    (t.fb = s.fb ∧ t.dirty = s.dirty) ∨ i = .cls ∨ ∃ x y n, i = .drw x y n := by
  obtain ⟨f, info, -, rfl⟩ | hx := exec_executed h
  · exact .inl ⟨rfl, rfl⟩
  · cases hx with
    | cls => exact .inr (.inl rfl)
    | drw x y n => exact .inr (.inr ⟨x, y, n, rfl⟩)
    | _ => simp

/-- Settles O25: a pixel is read off the frame buffer, which the other instructions keep; the effects of 00E0 and DXYN end in
the redraw flag and the move of pc. -/
theorem onlyDisplayInstructionsDraw : Obligations.OnlyDisplayInstructionsDraw := by
  refine ⟨fun i s t h hchange => ?_, fun i s t _ h ht hi => ?_⟩
  · obtain ⟨hfb, hdirty⟩ | hi := display_kept_or_draws h
    · obtain ⟨x, y, hpixel⟩ | hflag := hchange
      · exact absurd (State.pixel_congr hfb x y) hpixel
      · exact absurd hdirty hflag
    · exact hi
  · obtain rfl | ⟨x, y, n, rfl⟩ := hi
    · cases executed_of_running h ht with
      | cls => exact ⟨rfl, rfl⟩
    · cases executed_of_running h ht with
      | drw x y n hn => exact ⟨rfl, by simp⟩

/-! ### 00E0 -/

/-- Settles O32: the effect of 00E0, field by field. -/
theorem clearScreenResult : Obligations.ClearScreenResult :=
  ⟨rfl, fun s => ⟨_, rfl, State.pixel_clearPixels s, rfl, rfl, rfl, fun _ => rfl⟩⟩

/-! ### DXYN -/

/-- DXYN on a sprite that does not lie wholly in memory (40_display.md R112, R115). -/
theorem exec_drw_of_fault {s : State} {x y : Reg} {n : Nibble} {f : FaultCode}
    (h : s.loadRangeFault n.toNat = some f) : exec (.drw x y n) s = .next (s.raiseFault f s.i) := by
  rw [exec, execDrw, h]

/-- DXYN on a sprite that lies in memory, or has no row (40_display.md R112). -/
theorem exec_drw_of_no_fault {s : State} {x y : Reg} {n : Nibble} (h : s.loadRangeFault n.toNat = none) :
    exec (.drw x y n) s =
      let d := drawRows (originX (s.reg x)) (originY (s.reg y)) n.toNat (s, false)
      .next (d.1.setReg Reg.vf (collisionFlag d.2)).setDirty.advance := by
  rw [exec, execDrw, h]

/-- A lit pixel lies on the grid (10_state.md R31). -/
theorem State.on_grid_of_pixel {s : State} {x y : Nat} (h : s.pixel x y = true) : x < 64 ∧ y < 32 := by
  unfold State.pixel at h
  split at h
  · assumption
  · cases h

/-- A lit pixel of the grid under a set bit of the n-row sprite with its origin at (x0, y0) (40_display.md R112). -/
abbrev Collides (s : State) (x0 y0 n : Nat) : Prop :=
  ∃ px py, px < 64 ∧ py < 32 ∧ s.pixel px py = true ∧ spriteLit s x0 y0 n px py = true

/-- The collision that DXYN's rows answer is one on the grid. -/
theorem drawRows_collision (s : State) (x0 y0 n : Nat) :
    (drawRows x0 y0 n (s, false)).2 = true ↔ Collides s x0 y0 n := by
  obtain ⟨-, -, hcollision⟩ := drawRows_spec s x0 y0 n
  rw [hcollision]
  constructor
  · rintro ⟨p, q, hlit, hsprite⟩
    obtain ⟨hp, hq⟩ := State.on_grid_of_pixel hlit
    exact ⟨p, q, hp, hq, hlit, hsprite⟩
  · rintro ⟨p, q, -, -, hlit, hsprite⟩
    exact ⟨p, q, hlit, hsprite⟩

/-- VF after DXYN: 1 when the sprite collides and 0 when it does not (40_display.md R112). -/
theorem collisionFlag_drawRows (s : State) (x0 y0 n : Nat) :
    (Collides s x0 y0 n → collisionFlag (drawRows x0 y0 n (s, false)).2 = 1) ∧
    (¬ Collides s x0 y0 n → collisionFlag (drawRows x0 y0 n (s, false)).2 = 0) := by
  rw [← drawRows_collision, Bool.not_eq_true]
  exact ⟨fun h => by rw [h]; rfl, fun h => by rw [h]; rfl⟩

/-- Settles O33: the range check decides between the fault and the drawing; the pixels and the collision are those of
`drawRows`, which writes the frame buffer alone. -/
theorem drawSpriteResult : Obligations.DrawSpriteResult := by
  refine fun x y n s => ⟨rfl, fun ⟨hpos, hout⟩ => ?_, fun hin => ?_⟩
  · have hf : s.loadRangeFault n.toNat = some .dataBounds := by
      rw [State.loadRangeFault_eq, if_pos (by omega)]
    exact exec_drw_of_fault hf
  · have hn : s.loadRangeFault n.toNat = none := by
      rw [State.loadRangeFault_eq, if_neg (by omega)]
    obtain ⟨hframe, hpixel, -⟩ := drawRows_spec s (originX (s.reg x)) (originY (s.reg y)) n.toNat
    obtain ⟨hhit, hmiss⟩ := collisionFlag_drawRows s (originX (s.reg x)) (originY (s.reg y)) n.toNat
    refine ⟨_, exec_drw_of_no_fault hn, fun px py hpx hpy => ?_, fun h => ?_, fun h => ?_, fun r hr => ?_, rfl,
      by simp, ?_, fun a => ?_⟩
    · exact hpixel px py hpx hpy
    · simpa using hhit h
    · simpa using hmiss h
    · rw [State.reg_advance, State.reg_setDirty, State.reg_setReg, if_neg hr]
      exact State.reg_congr (drawRows_v ..) r
    · rw [hframe]
      rfl
    · exact State.readByte_congr (drawRows_mem ..) a

end Sys2Proof.Machine
end

section
/-! Control flow: returns, jumps, calls and the skips on registers (41_control_flow.md). -/

namespace Sys2Proof.Machine

open Sys2Proof

/-! ### Frames -/

/-- A move of pc changes pc alone. -/
theorem State.onlyPcChanges_setPc (s : State) (u : Word) : OnlyPcChanges s (s.setPc u) := ⟨rfl, fun _ => rfl⟩

/-- A skip on a condition changes pc alone, by 4 or by 2 (41_control_flow.md R130). -/
theorem State.skipIf_spec (s : State) {c : Bool} {p : Prop} [Decidable p] (hc : c = true ↔ p) :
    OnlyPcChanges s (s.skipIf c) ∧ (s.skipIf c).pc = if p then s.pc + 4 else s.pc + 2 :=
  ⟨s.onlyPcChanges_setPc _, ite_cond_congr (propext hc)⟩

/-! ### The stack -/

/-- The entry that a push leaves on top is the pushed pc (41_control_flow.md R131, R133). -/
@[simp] theorem State.stackTop_pushPc (s : State) (h : s.sp.val < 16) : (s.pushPc h).stackTop = s.pc :=
  Vector.getElem_set_self ..

/-- A move of pc keeps the top of the stack. -/
@[simp] theorem State.stackTop_setPc (s : State) (u : Word) : (s.setPc u).stackTop = s.stackTop := rfl

/-- 00EE on an empty stack (41_control_flow.md R131). -/
theorem exec_ret_of_empty {s : State} (h : s.sp.val = 0) : exec .ret s = .next (s.raiseFault .stackUnderflow 0) :=
  if_pos h

/-- 00EE with a return address on the stack (41_control_flow.md R131). -/
theorem exec_ret_of_pos {s : State} (h : 0 < s.sp.val) : exec .ret s = .next (s.popSp.setPc (s.stackTop + 2)) :=
  if_neg h.ne'

/-- 2NNN on a full stack (41_control_flow.md R133). -/
theorem exec_call_of_full {s : State} (nnn : Addr) (h : s.sp.val = 16) :
    exec (.call nnn) s = .next (s.raiseFault .stackOverflow (zextAddr nnn)) :=
  dif_neg (by omega)

/-- 2NNN with room on the stack (41_control_flow.md R133). -/
theorem exec_call_of_room {s : State} (nnn : Addr) (h : s.sp.val < 16) :
    exec (.call nnn) s = .next ((s.pushPc h).setPc (zextAddr nnn)) :=
  dif_pos h

/-- Settles O34: the depth of the stack decides between the fault and the pop. -/
theorem returnResult : Obligations.ReturnResult :=
  ⟨rfl, fun _ => ⟨exec_ret_of_empty, fun h => ⟨_, exec_ret_of_pos h, rfl, BitVec.toNat_add .., rfl, fun _ => rfl⟩⟩⟩

/-- Settles O36: the depth of the stack decides between the fault and the push. -/
theorem callResult : Obligations.CallResult := fun nnn _ =>
  ⟨rfl, exec_call_of_full nnn, fun h =>
    ⟨_, exec_call_of_room nnn h, rfl, rfl, zextAddr_toNat nnn, rfl, fun _ => rfl⟩⟩

/-- 00EE right after a push, wherever the call went: it pops the pushed pc (41_control_flow.md R131, R133). -/
theorem exec_ret_pushPc {s : State} (h : s.sp.val < 16) (u : Word) :
    exec .ret ((s.pushPc h).setPc u) = .next (((s.pushPc h).setPc u).popSp.setPc (s.pc + 2)) := by
  rw [exec_ret_of_pos (Nat.succ_pos _), State.stackTop_setPc, State.stackTop_pushPc]

/-- Settles O37: the return pops the entry that the call pushed, the pc of the call. -/
theorem callThenReturnResumes : Obligations.CallThenReturnResumes := fun nnn _ h =>
  ⟨_, _, exec_call_of_room nnn h, exec_ret_pushPc h _, rfl, rfl, rfl, fun _ hk => Vector.getElem_set_ne h _ hk.symm⟩

/-! ### Jumps and skips -/

/-- Fetch takes FETCH_BOUNDS only when pc is above 0xFFE (30_encoding.md R82). -/
theorem pc_gt_of_fetchDecode_fetchBounds {s : State} {info : Word}
    (h : s.fetchDecode = .error (.fetchBounds, info)) : 0xFFE < s.pc.toNat := by
  obtain ⟨hp, -⟩ | ⟨-, -, hd⟩ | ⟨-, i, -, hd⟩ := fetchDecode_cases s
  · exact hp
  · cases hd.symm.trans h
  · cases hd.symm.trans h

/-- The step after a jump of a running core to a target above 0xFFE takes FETCH_BOUNDS (30_encoding.md R82). -/
theorem step_setPc_of_gt {s : State} {u : Word} (hs : s.faultCode = .none) (hu : u.toNat > 0xFFE) :
    step (s.setPc u) = .next (Faulted (s.setPc u) .fetchBounds u) :=
  (fetchBoundsFault (s.setPc u) hs).1 hu

/-- Settles O35: 0xFFF is the one target above 0xFFE. -/
theorem jumpResult : Obligations.JumpResult := by
  intro nnn s
  have hpc : (s.setPc (zextAddr nnn)).pc.toNat = nnn.toNat := zextAddr_toNat nnn
  refine ⟨rfl, _, rfl, hpc, s.onlyPcChanges_setPc _, fun hs => ⟨?_, fun hne info hf => ?_⟩⟩
  · rintro rfl
    exact step_setPc_of_gt hs (by decide)
  · have hgt := pc_gt_of_fetchDecode_fetchBounds hf
    bv_omega

/-- Settles O39: the sum of a 12-bit and an 8-bit number does not wrap in 16 bits. -/
theorem jumpPlusV0Result : Obligations.JumpPlusV0Result := by
  intro nnn s
  have hsum : (zextAddr nnn + zextByte (s.reg 0)).toNat = nnn.toNat + (s.reg 0).toNat := by
    have hn := nnn.isLt
    have hv := (s.reg 0).isLt
    rw [BitVec.toNat_add, zextAddr_toNat, zextByte_toNat]
    omega
  exact ⟨rfl, _, rfl, hsum, s.onlyPcChanges_setPc _, fun hs hgt => step_setPc_of_gt hs (hsum.symm ▸ hgt)⟩

/-- Settles O38: the four are skips, each on its own condition. -/
theorem registerSkipResults : Obligations.RegisterSkipResults := fun _ _ _ s =>
  ⟨⟨rfl, _, rfl, s.skipIf_spec beq_iff_eq⟩, ⟨rfl, _, rfl, s.skipIf_spec bne_iff_ne⟩,
    ⟨rfl, _, rfl, s.skipIf_spec beq_iff_eq⟩, ⟨rfl, _, rfl, s.skipIf_spec bne_iff_ne⟩⟩

end Sys2Proof.Machine
end

section
/-! Register and arithmetic instructions: one write of VX, the sum with its carry, and the four instructions that write
the flag first (42_alu.md). -/

namespace Sys2Proof.Machine

open Sys2Proof

/-! ### Flags and 8-bit results as numbers -/

/-- A flag of a decidable condition. -/
theorem flagOf_decide (p : Prop) [Decidable p] : flagOf (decide p) = if p then 1 else 0 :=
  ite_cond_congr (propext decide_eq_true_iff)

/-- A flag of a decidable condition, as a number. -/
theorem flagOf_decide_toNat (p : Prop) [Decidable p] : (flagOf (decide p)).toNat = if p then 1 else 0 := by
  rw [flagOf_decide, apply_ite BitVec.toNat]
  rfl

/-- The flag of 8XY4 as a number (42_alu.md R158). -/
theorem carryFlag_toNat (a b : Byte) : (carryFlag a b).toNat = if a.toNat + b.toNat > 255 then 1 else 0 :=
  flagOf_decide_toNat _

/-- The flag of 8XY5 and 8XY7 as a number (42_alu.md R159, R161). -/
theorem greaterFlag_toNat (a b : Byte) : (greaterFlag a b).toNat = if a.toNat > b.toNat then 1 else 0 :=
  flagOf_decide_toNat _

/-- Subtraction modulo 256 (42_alu.md R164). -/
theorem byte_sub_toNat (a b : Byte) : (a - b).toNat = (a.toNat + 256 - b.toNat) % 256 := by
  bv_omega

/-- A right shift by one halves (42_alu.md R160). -/
theorem byte_shr_toNat (a : Byte) : (a >>> 1).toNat = a.toNat / 2 := by
  rw [BitVec.toNat_ushiftRight, Nat.shiftRight_one]

/-- A left shift by one doubles modulo 256 (42_alu.md R162). -/
theorem byte_shl_toNat (a : Byte) : (a <<< 1).toNat = a.toNat * 2 % 256 := by
  rw [BitVec.toNat_shiftLeft, Nat.shiftLeft_eq]

/-- The flag of 8XY6 is bit 0 (42_alu.md R160). -/
theorem shrFlag_toNat (a : Byte) : (shrFlag a).toNat = a.toNat % 2 :=
  (BitVec.toNat_and ..).trans (Nat.and_one_is_mod _)

/-- The flag of 8XYE is bit 7 (42_alu.md R162). -/
theorem shlFlag_toNat (a : Byte) : (shlFlag a).toNat = a.toNat / 128 := by
  have hbit : (shlFlag a).toNat = a.toNat / 128 % 2 := by
    rw [shlFlag, BitVec.toNat_and, BitVec.toNat_ushiftRight, Nat.shiftRight_eq_div_pow]
    exact Nat.and_one_is_mod _
  have ha := a.isLt
  omega

/-- 8XY6 with X = 0xF shifts its own flag out (42_alu.md R160). -/
theorem shrFlag_shr (a : Byte) : shrFlag a >>> 1 = 0 :=
  BitVec.eq_of_toNat_eq (by
    rw [byte_shr_toNat, shrFlag_toNat]
    exact Nat.div_eq_of_lt (Nat.mod_lt _ (by decide)))

/-- 8XYE with X = 0xF doubles its own flag (42_alu.md R162). -/
theorem shlFlag_shl_toNat (a : Byte) : (shlFlag a <<< 1).toNat = 2 * (a.toNat / 128) := by
  have ha := a.isLt
  rw [byte_shl_toNat, shlFlag_toNat]
  omega

/-! ### One write -/

/-- The written register. -/
theorem State.reg_setReg_self (s : State) (x : Reg) (u : Byte) : (s.setReg x u).reg x = u := by
  rw [State.reg_setReg, if_pos rfl]

/-- Another register than the written one. -/
theorem State.reg_setReg_of_ne (s : State) {x r : Reg} (h : r ≠ x) (u : Byte) : (s.setReg x u).reg r = s.reg r := by
  rw [State.reg_setReg, if_neg h]

/-- What a write of VX and the move to the next instruction keep (42_alu.md R150). -/
theorem State.setReg_advance_frame (s : State) (x : Reg) (u : Byte) :
    OtherRegsKept s (s.setReg x u).advance x ∧ (s.setReg x u).advance.pc = s.pc + 2 ∧
      OnlyRegsAndPcChange s (s.setReg x u).advance :=
  ⟨fun _ hr => s.reg_setReg_of_ne hr u, rfl, rfl, fun _ => rfl⟩

/-- Settles O40: each of the three is one write of VX. -/
theorem loadAddCopyResults : Obligations.LoadAddCopyResults := by
  refine fun _ _ _ s => ⟨⟨rfl, _, rfl, s.reg_setReg_self .., s.setReg_advance_frame ..⟩,
    ⟨rfl, _, rfl, ?_, s.setReg_advance_frame ..⟩,
    ⟨rfl, _, rfl, s.reg_setReg_self .., s.setReg_advance_frame ..⟩⟩
  rw [State.reg_advance, State.reg_setReg_self, BitVec.toNat_add]

/-- Settles O41: each of the three is one write of VX. -/
theorem logicalResults : Obligations.LogicalResults := fun _ _ s =>
  ⟨⟨rfl, _, rfl, s.reg_setReg_self .., s.setReg_advance_frame ..⟩,
    ⟨rfl, _, rfl, s.reg_setReg_self .., s.setReg_advance_frame ..⟩,
    ⟨rfl, _, rfl, s.reg_setReg_self .., s.setReg_advance_frame ..⟩⟩

/-- Settles O46: the mask is applied to the free byte, and 0 and 0xFF are the masks that clear and keep every bit. -/
theorem randomMaskResult : Obligations.RandomMaskResult := by
  intro x nn s
  have hvx : (s.drawn.setReg x (s.rndByte &&& nn)).reg x = Config.rnd s.rndCount &&& nn := State.reg_setReg_self ..
  refine ⟨rfl, _, rfl, hvx, ?_, ?_, fun r hr => s.drawn.reg_setReg_of_ne hr _, rfl, rfl, fun _ => rfl⟩
  · rintro rfl
    exact hvx.trans BitVec.and_zero
  · rintro rfl
    exact hvx.trans BitVec.and_allOnes

/-! ### The sum first, then the carry -/

/-- Settles O42: VF is written last, so the sum stays in VX only for X other than 0xF. -/
theorem addWithCarryResult : Obligations.AddWithCarryResult := by
  refine fun x y s => ⟨rfl, _, rfl, ?_, fun hx => ?_, fun r hr hf => ?_, rfl, rfl, fun _ => rfl⟩
  · rw [State.reg_advance, State.reg_setReg_self, carryFlag_toNat]
  · rw [State.reg_advance, State.reg_setReg_of_ne _ hx, State.reg_setReg_self, BitVec.toNat_add]
  · rw [State.reg_advance, State.reg_setReg_of_ne _ hf, State.reg_setReg_of_ne _ hr]

/-! ### The flag first, then VX -/

/-- The shape of 8XY5, 8XY6, 8XY7 and 8XYE: VF takes the flag, then VX takes a value computed from the registers as they
then are (00_scope.md R11; 42_alu.md R159 to R162). -/
def State.flagThen (s : State) (x : Reg) (f : Byte) (value : State → Byte) : State :=
  ((s.setReg Reg.vf f).setReg x (value (s.setReg Reg.vf f))).advance

/-- 8XY5 (42_alu.md R159). -/
theorem exec_sub (x y : Reg) (s : State) : exec (.sub x y) s =
    .next (s.flagThen x (greaterFlag (s.reg x) (s.reg y)) fun t => t.reg x - t.reg y) := rfl

/-- 8XY6 (42_alu.md R160). -/
theorem exec_shr (x y : Reg) (s : State) : exec (.shr x y) s =
    .next (s.flagThen x (shrFlag (s.reg x)) fun t => t.reg x >>> 1) := rfl

/-- 8XY7 (42_alu.md R161). -/
theorem exec_subn (x y : Reg) (s : State) : exec (.subn x y) s =
    .next (s.flagThen x (greaterFlag (s.reg y) (s.reg x)) fun t => t.reg y - t.reg x) := rfl

/-- 8XYE (42_alu.md R162). -/
theorem exec_shl (x y : Reg) (s : State) : exec (.shl x y) s =
    .next (s.flagThen x (shlFlag (s.reg x)) fun t => t.reg x <<< 1) := rfl

section
variable (s : State) (x : Reg) (f : Byte) (value : State → Byte)

/-- VX after the flag and the value. -/
theorem State.reg_flagThen_self : (s.flagThen x f value).reg x = value (s.setReg Reg.vf f) :=
  State.reg_setReg_self ..

/-- Every other register holds what the flag's write left. -/
theorem State.reg_flagThen_of_ne {x r : Reg} (h : r ≠ x) :
    (s.flagThen x f value).reg r = (s.setReg Reg.vf f).reg r :=
  State.reg_setReg_of_ne _ h _

/-- VF holds the flag when it is not the destination. -/
theorem State.reg_flagThen_vf {x : Reg} (h : x ≠ 0xF) : (s.flagThen x f value).reg 0xF = f := by
  rw [State.reg_flagThen_of_ne _ _ _ h.symm, State.reg_setReg_self]

/-- Nothing but general registers and pc changes (42_alu.md R150). -/
theorem State.flagThen_frame :
    (s.flagThen x f value).pc = s.pc + 2 ∧ OnlyRegsAndPcChange s (s.flagThen x f value) :=
  ⟨rfl, rfl, fun _ => rfl⟩

end

/-- A difference after the flag, as a number. -/
theorem State.flagThen_sub_toNat (s : State) (x p q : Reg) (f : Byte) :
    ((s.flagThen x f fun t => t.reg p - t.reg q).reg x).toNat =
      (((s.setReg Reg.vf f).reg p).toNat + 256 - ((s.setReg Reg.vf f).reg q).toNat) % 256 := by
  rw [State.reg_flagThen_self, byte_sub_toNat]

/-- The registers as the strict comparison's write to VF leaves them (42_alu.md R159, R161). -/
theorem State.reg_setReg_greaterFlag (s : State) (a b : Byte) (r : Reg) :
    (s.setReg Reg.vf (greaterFlag a b)).reg r = if r = 0xF then if a.toNat > b.toNat then 1 else 0 else s.reg r := by
  rw [State.reg_setReg, greaterFlag, flagOf_decide]

/-- A difference after the comparison: the registers other than VX are those that the comparison left. -/
theorem State.flagThen_sub_spec (s : State) (x p q : Reg) (a b : Byte) :
    let old : Reg → Byte := fun r => if r = 0xF then if a.toNat > b.toNat then 1 else 0 else s.reg r
    let t := s.flagThen x (greaterFlag a b) fun t => t.reg p - t.reg q
    (t.reg x).toNat = ((old p).toNat + 256 - (old q).toNat) % 256 ∧ ∀ r, r ≠ x → t.reg r = old r := by
  refine ⟨?_, fun r hr => ?_⟩
  · rw [State.flagThen_sub_toNat, State.reg_setReg_greaterFlag, State.reg_setReg_greaterFlag]
  · rw [State.reg_flagThen_of_ne _ _ _ hr, State.reg_setReg_greaterFlag]

/-- Settles O43: both are a difference after the comparison, with the operands exchanged. -/
theorem subtractResults : Obligations.SubtractResults := by
  intro x y s
  obtain ⟨hsub, hsubKept⟩ := s.flagThen_sub_spec x x y (s.reg x) (s.reg y)
  obtain ⟨hsubn, hsubnKept⟩ := s.flagThen_sub_spec x y x (s.reg y) (s.reg x)
  exact ⟨⟨rfl, _, exec_sub x y s, hsub, hsubKept, s.flagThen_frame ..⟩,
    ⟨rfl, _, exec_subn x y s, hsubn, hsubnKept, s.flagThen_frame ..⟩⟩

/-- 8XYE with X = 0xF: VF ends as its own bit 7, doubled (42_alu.md R162). -/
theorem shlFlag_shl (a : Byte) : shlFlag a <<< 1 = if a.toNat ≥ 128 then 2 else 0 := by
  refine BitVec.eq_of_toNat_eq ?_
  rw [shlFlag_shl_toNat, apply_ite BitVec.toNat]
  have ha := a.isLt
  split
  · exact (by omega : 2 * (a.toNat / 128) = 2)
  · exact (by omega : 2 * (a.toNat / 128) = 0)

/-- VX computed from its own value after the flag: for X = 0xF that value is the flag, otherwise it is the old one. -/
theorem State.flagThen_update_spec (s : State) (x : Reg) (f : Byte) (g : Byte → Byte) :
    let t := s.flagThen x f fun t => g (t.reg x)
    (x ≠ 0xF → t.reg 0xF = f ∧ t.reg x = g (s.reg x)) ∧ (x = 0xF → t.reg 0xF = g f) ∧
      ∀ r, r ≠ x → r ≠ 0xF → t.reg r = s.reg r := by
  refine ⟨fun hx => ⟨State.reg_flagThen_vf _ _ _ hx, ?_⟩, ?_, fun r hr hf => ?_⟩
  · rw [State.reg_flagThen_self, State.reg_setReg_of_ne _ hx]
  · rintro rfl
    rw [State.reg_flagThen_self, State.reg_setReg_self]
  · rw [State.reg_flagThen_of_ne _ _ _ hr, State.reg_setReg_of_ne _ hf]

/-- Settles O44: a shift of the old VX with the flag beside it, or for X = 0xF a shift of the flag itself. -/
theorem shiftResults : Obligations.ShiftResults := by
  intro x y s
  constructor
  · obtain ⟨hne, hvf, hkept⟩ := s.flagThen_update_spec x (shrFlag (s.reg x)) (· >>> 1)
    refine ⟨rfl, _, exec_shr x y s, fun hx => ?_, fun hx => (hvf hx).trans (shrFlag_shr _), hkept,
      s.flagThen_frame ..⟩
    obtain ⟨hflag, hvx⟩ := hne hx
    exact ⟨by rw [hflag, shrFlag_toNat], by rw [hvx, byte_shr_toNat]⟩
  · obtain ⟨hne, hvf, hkept⟩ := s.flagThen_update_spec x (shlFlag (s.reg x)) (· <<< 1)
    refine ⟨rfl, _, exec_shl x y s, fun hx => ?_, ?_, hkept, s.flagThen_frame ..⟩
    · obtain ⟨hflag, hvx⟩ := hne hx
      exact ⟨by rw [hflag, shlFlag_toNat], by rw [hvx, byte_shl_toNat]⟩
    · rintro rfl
      exact (hvf rfl).trans (shlFlag_shl _)

/-! ### VF as an operand -/

/-- 8XYE on VF, whatever Y is: its own bit 7, doubled (42_alu.md R165). -/
theorem exec_shl_vf_toNat (s : State) (y : Reg) :
    ∃ t, exec (.shl 0xF y) s = .next t ∧ (t.reg 0xF).toNat = 2 * ((s.reg 0xF).toNat / 128) := by
  obtain ⟨-, hvf, -⟩ := s.flagThen_update_spec 0xF (shlFlag (s.reg 0xF)) (· <<< 1)
  exact ⟨_, exec_shl 0xF y s, by rw [hvf rfl, shlFlag_shl_toNat]⟩

/-- Settles O45: the additions and shifts are cases of O42 and O44; in a subtraction the operand VF is the flag. -/
theorem flagOperandResults : Obligations.FlagOperandResults := by
  intro x y s hx hy
  obtain ⟨-, haddVf⟩ := addWithCarryResult 0xF y s
  obtain ⟨-, hadd⟩ := addWithCarryResult x 0xF s
  obtain ⟨-, haddBoth⟩ := addWithCarryResult 0xF 0xF s
  obtain ⟨⟨-, hshrVf⟩, -⟩ := shiftResults 0xF y s
  obtain ⟨⟨-, hshr⟩, -, hshl⟩ := shiftResults x 0xF s
  obtain ⟨⟨-, hshrBoth⟩, -⟩ := shiftResults 0xF 0xF s
  refine ⟨haddVf.imp fun _ ⟨ht, hc, _⟩ => ⟨ht, hc⟩,
    hadd.imp fun _ ⟨ht, hc, hsum, _⟩ => ⟨ht, hsum hx, hc⟩,
    haddBoth.imp fun _ ⟨ht, hc, _⟩ => ⟨ht, by rwa [two_mul]⟩,
    ⟨_, exec_sub 0xF y s, ?_⟩, ⟨_, exec_sub x 0xF s, ?_, ?_⟩,
    ⟨_, exec_sub 0xF 0xF s, (s.reg_flagThen_self ..).trans (BitVec.sub_self _)⟩,
    hshrVf.imp fun _ ⟨ht, _, hz, _⟩ => ⟨ht, hz rfl⟩,
    hshr.imp fun _ ⟨ht, hv, _⟩ => ⟨ht, hv hx⟩,
    hshrBoth.imp fun _ ⟨ht, _, hz, _⟩ => ⟨ht, hz rfl⟩,
    ⟨_, exec_subn 0xF y s, ?_⟩, ⟨_, exec_subn x 0xF s, ?_, ?_⟩,
    ⟨_, exec_subn 0xF 0xF s, (s.reg_flagThen_self ..).trans (BitVec.sub_self _)⟩,
    exec_shl_vf_toNat s y, hshl.imp fun _ ⟨ht, hv, _⟩ => ⟨ht, hv hx⟩, exec_shl_vf_toNat s 0xF⟩
  · rw [State.flagThen_sub_toNat, State.reg_setReg_self, State.reg_setReg_of_ne _ hy, greaterFlag_toNat]
  · rw [State.reg_flagThen_vf _ _ _ hx, greaterFlag_toNat]
  · rw [State.flagThen_sub_toNat, State.reg_setReg_self, State.reg_setReg_of_ne _ hx, greaterFlag_toNat]
  · rw [State.flagThen_sub_toNat, State.reg_setReg_self, State.reg_setReg_of_ne _ hy, greaterFlag_toNat]
  · rw [State.reg_flagThen_vf _ _ _ hx, greaterFlag_toNat]
  · rw [State.flagThen_sub_toNat, State.reg_setReg_self, State.reg_setReg_of_ne _ hx, greaterFlag_toNat]

end Sys2Proof.Machine
end

section
/-! The index register and the memory instructions: the writes of I, and the accesses to the bytes from I on
(43_index_memory.md). -/

namespace Sys2Proof.Machine

open Sys2Proof

/-! ### The range checks, by range -/

/-- A reading range that reaches beyond 0xFFF (20_memory.md R66). -/
theorem State.loadRangeFault_of_beyond {s : State} {n : Nat} (hn : 0 < n) (h : s.i.toNat + n > 0x1000) :
    s.loadRangeFault n = some .dataBounds := by
  rw [State.loadRangeFault_eq, if_pos (by omega)]

/-- A range inside memory may be read (20_memory.md R66). -/
theorem State.loadRangeFault_eq_none {s : State} {n : Nat} (h : s.i.toNat + n ≤ 0x1000) :
    s.loadRangeFault n = none := by
  rw [State.loadRangeFault_eq, if_neg (by omega)]

/-- A storing range that reaches beyond 0xFFF (20_memory.md R67). -/
theorem State.storeRangeFault_of_beyond {s : State} {n : Nat} (hn : 0 < n) (hn16 : n ≤ 16)
    (h : s.i.toNat + n > 0x1000) : s.storeRangeFault n = some .dataBounds := by
  rw [State.storeRangeFault_eq s n hn hn16, if_pos (by omega)]

/-- A storing range that begins in the reserved area; at most 16 bytes, it does not also reach beyond 0xFFF
(20_memory.md R67). -/
theorem State.storeRangeFault_of_reserved {s : State} {n : Nat} (hn : 0 < n) (hn16 : n ≤ 16)
    (h : s.i.toNat < 0x200) : s.storeRangeFault n = some .reservedWrite := by
  rw [State.storeRangeFault_eq s n hn hn16, if_neg (by omega), if_pos h]

/-! ### The three accesses, by the answer of their range check -/

section
variable {s : State} {x : Reg} {f : FaultCode}

/-- FX33 on a range that may not be stored (43_index_memory.md R184). -/
theorem exec_ldBVx_of_fault (h : s.storeRangeFault 3 = some f) :
    exec (.ldBVx x) s = .next (s.raiseFault f s.i) := by
  rw [exec, execLdBVx, h]

/-- FX33 on a range that may be stored (43_index_memory.md R184). -/
theorem exec_ldBVx_of_no_fault (h : s.storeRangeFault 3 = none) :
    exec (.ldBVx x) s = .next (s.writeBytes s.i.toNat (bcdDigits (s.reg x))).advance := by
  rw [exec, execLdBVx, h]
  rfl

/-- FX55 on a range that may not be stored (43_index_memory.md R185). -/
theorem exec_ldMemVx_of_fault (h : s.storeRangeFault (x.toNat + 1) = some f) :
    exec (.ldMemVx x) s = .next (s.raiseFault f s.i) := by
  rw [exec, execLdMemVx, h]

/-- FX55 on a range that may be stored (43_index_memory.md R185). -/
theorem exec_ldMemVx_of_no_fault (h : s.storeRangeFault (x.toNat + 1) = none) :
    exec (.ldMemVx x) s = .next (s.writeBytes s.i.toNat (s.regsUpTo x)).advance := by
  rw [exec, execLdMemVx, h]
  rfl

/-- FX65 on a range that may not be read (43_index_memory.md R186). -/
theorem exec_ldVxMem_of_fault (h : s.loadRangeFault (x.toNat + 1) = some f) :
    exec (.ldVxMem x) s = .next (s.raiseFault f s.i) := by
  rw [exec, execLdVxMem, h]

/-- FX65 on a range that may be read (43_index_memory.md R186). -/
theorem exec_ldVxMem_of_no_fault (h : s.loadRangeFault (x.toNat + 1) = none) :
    exec (.ldVxMem x) s = .next (s.loadRegs x).advance := by
  rw [exec, execLdVxMem, h]

end

/-! ### Storing and loading -/

/-- What a store of a run of bytes and the move to the next instruction keep (43_index_memory.md R180). -/
theorem State.writeBytes_advance_frame (s : State) (a : Nat) (us : List Byte) :
    SameBytesOutside s (s.writeBytes a us).advance a us.length ∧ (s.writeBytes a us).advance.pc = s.pc + 2 ∧
      (s.writeBytes a us).advance =
        { s with mem := (s.writeBytes a us).advance.mem, pc := (s.writeBytes a us).advance.pc } := by
  refine ⟨fun b hb => ?_, ?_, ?_⟩
  · rw [State.readByte_advance, State.readByte_writeBytes, if_neg (by omega)]
  · rw [State.advance_pc, State.writeBytes_pc]
  · rw [State.writeBytes_eq]
    rfl

/-- Settles O49: the range of X + 1 bytes decides between the two faults and the store of V0 to VX. -/
theorem storeRegistersResult : Obligations.StoreRegistersResult := by
  intro x s
  have hx : x.toNat + 1 ≤ 16 := x.isLt
  refine ⟨rfl, fun hout => ?_, fun hlow => ?_, fun hlo hhi => ?_⟩
  · exact exec_ldMemVx_of_fault (State.storeRangeFault_of_beyond (Nat.succ_pos _) hx (by omega))
  · exact exec_ldMemVx_of_fault (State.storeRangeFault_of_reserved (Nat.succ_pos _) hx hlow)
  · have hframe := s.writeBytes_advance_frame s.i.toNat (s.regsUpTo x)
    rw [State.length_regsUpTo] at hframe
    refine ⟨_, exec_ldMemVx_of_no_fault (State.storeRangeFault_eq_none hlo (by omega)), fun k hk => ?_, hframe⟩
    rw [State.readByte_advance, State.readByte_storeRegs, if_pos (by omega), Nat.add_sub_cancel_left, regOf_of_toNat]

/-- Settles O50: the range of X + 1 bytes decides between the fault and the loads, which write registers alone. -/
theorem loadRegistersResult : Obligations.LoadRegistersResult := by
  refine fun x s => ⟨rfl, fun hout => ?_, fun hin => ?_⟩
  · exact exec_ldVxMem_of_fault (State.loadRangeFault_of_beyond (Nat.succ_pos _) (by omega))
  · refine ⟨_, exec_ldVxMem_of_no_fault (State.loadRangeFault_eq_none (by omega)), s.reg_loadRegs x, ?_, ?_,
      fun a => ?_⟩
    · rw [State.advance_pc, State.loadRegs_pc]
    · rw [State.loadRegs_eq]
      rfl
    · exact State.readByte_congr (s.loadRegs_mem x) a

/-- Settles O48: the range of three bytes decides between the two faults and the store of the digits, each below 256. -/
theorem storeDecimalResult : Obligations.StoreDecimalResult := by
  refine fun x s => ⟨rfl, fun hout => ?_, fun hlow => ?_, fun hlo hhi => ?_⟩
  · exact exec_ldBVx_of_fault (State.storeRangeFault_of_beyond (by decide) (by decide) (by omega))
  · exact exec_ldBVx_of_fault (State.storeRangeFault_of_reserved (by decide) (by decide) hlow)
  · have hv := (s.reg x).isLt
    refine ⟨_, exec_ldBVx_of_no_fault (State.storeRangeFault_eq_none hlo (by omega)), ?_, ?_, ?_,
      s.writeBytes_advance_frame s.i.toNat (bcdDigits (s.reg x))⟩
    · rw [State.readByte_advance, State.readByte_storeDigits, if_pos rfl, BitVec.toNat_ofNat,
        Nat.mod_eq_of_lt (by omega)]
    · rw [State.readByte_advance, State.readByte_storeDigits, if_neg (by omega), if_pos rfl, BitVec.toNat_ofNat,
        Nat.mod_eq_of_lt (by omega)]
    · rw [State.readByte_advance, State.readByte_storeDigits, if_neg (by omega), if_neg (by omega), if_pos rfl,
        BitVec.toNat_ofNat, Nat.mod_eq_of_lt (by omega)]

/-! ### Writing I -/

/-- What a write of I and the move to the next instruction keep (43_index_memory.md R181 to R183). -/
theorem State.setI_advance_frame (s : State) (u : Word) :
    (s.setI u).advance.pc = s.pc + 2 ∧
      (s.setI u).advance = { s with i := (s.setI u).advance.i, pc := (s.setI u).advance.pc } ∧
      SameBytes s (s.setI u).advance :=
  ⟨rfl, rfl, fun _ => rfl⟩

/-- Every access through an I above 0xFFF takes DATA_BOUNDS (43_index_memory.md R182). -/
theorem access_of_i_gt {t : State} (h : t.i.toNat > 0xFFF) (y z : Reg) (n : Nibble) :
    exec (.ldVxMem y) t = .next (Faulted t .dataBounds t.i) ∧
      exec (.ldMemVx y) t = .next (Faulted t .dataBounds t.i) ∧
      exec (.ldBVx y) t = .next (Faulted t .dataBounds t.i) ∧
      (n ≠ 0 → exec (.drw y z n) t = .next (Faulted t .dataBounds t.i)) := by
  obtain ⟨-, hload, -⟩ := loadRegistersResult y t
  obtain ⟨-, hstore, -⟩ := storeRegistersResult y t
  obtain ⟨-, hdecimal, -⟩ := storeDecimalResult y t
  obtain ⟨-, hdraw, -⟩ := drawSpriteResult y z n t
  refine ⟨hload (by omega), hstore (by omega), hdecimal (by omega), fun hn => hdraw ⟨?_, by omega⟩⟩
  bv_omega

/-- Settles O47: each of the three is one write of I; after FX1E the accesses fault by their own range checks. -/
theorem indexResults : Obligations.IndexResults := by
  refine fun nnn x s => ⟨⟨rfl, _, rfl, zextAddr_toNat nnn, s.setI_advance_frame _⟩,
    ⟨rfl, _, rfl, ?_, rfl, rfl, fun _ => rfl, access_of_i_gt⟩,
    ⟨rfl, _, rfl, glyphAddr_toNat (s.reg x), s.setI_advance_frame _⟩⟩
  rw [State.advance_i, State.setI_i, BitVec.toNat_add, zextByte_toNat]

end Sys2Proof.Machine
end

section
/-! The keypad and the timers: the skips on a key, the wait for a key, and the transfers between VX and the timers with the
tick of their step (44_keypad_timers.md). -/

namespace Sys2Proof.Machine

open Sys2Proof

/-! ### The instructions on keys, by what they find -/

section
variable {s : State} {x k : Reg}

/-- EX9E on a value that is no key number (44_keypad_timers.md R201). -/
theorem exec_skp_of_gt (h : (s.reg x).toNat > 0xF) :
    exec (.skp x) s = .next (s.raiseFault .keyIndex (zextByte (s.reg x))) := by
  rw [exec, execSkp, (keyNumber?_eq_none _).mpr h]

/-- EX9E on the number of key k (44_keypad_timers.md R201). -/
theorem exec_skp_of_key (h : k.toNat = (s.reg x).toNat) : exec (.skp x) s = .next (s.skipIf (s.keyDown k)) := by
  rw [exec, execSkp, (keyNumber?_eq_some _ k).mpr h.symm]

/-- EXA1 on a value that is no key number (44_keypad_timers.md R202). -/
theorem exec_sknp_of_gt (h : (s.reg x).toNat > 0xF) :
    exec (.sknp x) s = .next (s.raiseFault .keyIndex (zextByte (s.reg x))) := by
  rw [exec, execSknp, (keyNumber?_eq_none _).mpr h]

/-- EXA1 on the number of key k (44_keypad_timers.md R202). -/
theorem exec_sknp_of_key (h : k.toNat = (s.reg x).toNat) :
    exec (.sknp x) s = .next (s.skipIf (!s.keyDown k)) := by
  rw [exec, execSknp, (keyNumber?_eq_some _ k).mpr h.symm]

/-- FX0A with a key to store (44_keypad_timers.md R204, R207). -/
theorem exec_ldVxK_of_selectKey (h : s.selectKey = some k) :
    exec (.ldVxK x) s = .next (s.setReg x (k.setWidth 8)).advance := by
  rw [exec, execLdVxK, h]

/-- FX0A with no key pressed (44_keypad_timers.md R204). -/
theorem exec_ldVxK_of_no_key (h : s.selectKey = none) : exec (.ldVxK x) s = .next s := by
  rw [exec, execLdVxK, h]

end

/-! ### The tick of the step -/

/-- The step of an instruction that leaves the fault status as it was ends in the tick (30_encoding.md R80, R86). -/
theorem step_of_exec_keeping_faultCode {s u : State} {i : Instr} (h : Fetches s i) (hx : exec i s = .next u)
    (hu : u.faultCode = s.faultCode) : step s = .next u.tick := by
  have ⟨hrun, _⟩ := h
  exact step_of_exec_running h hx (hu.trans hrun)

/-- The step of FX07 (44_keypad_timers.md R203). -/
theorem step_of_ldVxDt {s : State} {x : Reg} (h : Fetches s (.ldVxDt x)) :
    step s = .next (s.setReg x s.dt).advance.tick :=
  step_of_exec_keeping_faultCode h rfl rfl

/-- The step of FX15 (44_keypad_timers.md R205). -/
theorem step_of_ldDtVx {s : State} {x : Reg} (h : Fetches s (.ldDtVx x)) :
    step s = .next (s.setDt (s.reg x)).advance.tick :=
  step_of_exec_keeping_faultCode h rfl rfl

/-- The step of FX18 (44_keypad_timers.md R206). -/
theorem step_of_ldStVx {s : State} {x : Reg} (h : Fetches s (.ldStVx x)) :
    step s = .next (s.setSt (s.reg x)).advance.tick :=
  step_of_exec_keeping_faultCode h rfl rfl

/-- Sound is inactive when ST is 0 (10_state.md R44). -/
theorem State.soundActive_eq_false (s : State) : s.soundActive = false ↔ s.st.toNat = 0 := by
  obtain ⟨-, -, hactive, -⟩ := hostPortsRead s
  rw [← Bool.not_eq_true, hactive, not_not]

/-! ### The obligations -/

/-- Settles O52: the selected key is the pressed one with none below it; with none selected the step is the tick alone. -/
theorem keyWaitResult : Obligations.KeyWaitResult := by
  refine fun x s => ⟨rfl, fun k hk hlow => ?_, fun hnone => ?_⟩
  · have hsel : s.selectKey = some k := (State.selectKey_eq_some s k).mpr ⟨hk, hlow⟩
    refine ⟨_, exec_ldVxK_of_selectKey hsel, ?_, s.setReg_advance_frame ..⟩
    rw [State.reg_advance, State.reg_setReg_self]
    exact BitVec.toNat_setWidth_of_le (by decide)
  · have hx : exec (.ldVxK x) s = .next s := exec_ldVxK_of_no_key ((State.selectKey_eq_none s).mpr hnone)
    exact ⟨hx, fun hf => ⟨s.tick, step_of_exec_keeping_faultCode hf hx rfl, rfl, tickTimer_toNat s.dt,
      tickTimer_toNat s.st⟩⟩

/-- Settles O51: VX is a key number or it is not; the two skips are on opposite states of the key. -/
theorem keySkipResults : Obligations.KeySkipResults := fun _ s =>
  ⟨⟨rfl, exec_skp_of_gt, fun _ hk => ⟨_, exec_skp_of_key hk, s.skipIf_spec Iff.rfl⟩⟩,
    ⟨rfl, exec_sknp_of_gt, fun _ hk => ⟨_, exec_sknp_of_key hk, s.skipIf_spec (Bool.not_eq_true' _).to_iff⟩⟩⟩

/-- Settles O53: each of the three is one write and the move to the next instruction, and the tick follows it. -/
theorem timerTransferResults : Obligations.TimerTransferResults := by
  refine fun x s => ⟨⟨rfl, ⟨_, rfl, s.reg_setReg_self .., s.setReg_advance_frame ..⟩, fun hf => ?_⟩,
    ⟨rfl, ⟨_, rfl, rfl, rfl, rfl, fun _ => rfl⟩, fun hf => ?_⟩,
    ⟨rfl, ⟨_, rfl, rfl, rfl, rfl, fun _ => rfl⟩, fun hf => ?_⟩⟩
  · exact ⟨_, step_of_ldVxDt hf, s.reg_setReg_self .., tickTimer_toNat s.dt⟩
  · exact ⟨_, step_of_ldDtVx hf, tickTimer_toNat (s.reg x)⟩
  · have hst : (s.setSt (s.reg x)).advance.tick.st.toNat = (s.reg x).toNat - 1 := tickTimer_toNat (s.reg x)
    refine ⟨_, step_of_ldStVx hf, hst, fun hone => (State.soundActive_eq_false _).mpr ?_⟩
    rw [hst, hone]

end Sys2Proof.Machine
end

section
/-! The fault table and the tick (60_exceptions.md R220, R228): a row whose condition holds is the fault that the step takes,
and where no condition holds the instruction executes. -/

namespace Sys2Proof.Machine

open Sys2Proof

/-! ### The tick -/

/-- Settles O14: the step ends in the tick, which takes one from each timer and writes nothing else. -/
theorem tickEndsEveryStep : Obligations.TickEndsEveryStep := fun _ u _ hf hx hu =>
  ⟨u.tick, step_of_exec_running hf hx hu, rfl, tickTimer_toNat u.dt, tickTimer_toNat u.st⟩

/-! ### A row whose condition holds -/

/-- The step of an instruction that raises a fault is the entry of that fault, with no tick (60_exceptions.md R221). -/
theorem step_of_exec_fault {s : State} {i : Instr} {f : FaultCode} {info : Word} (h : Fetches s i)
    (hx : exec i s = .next (Faulted s f info)) (hne : f ≠ .none) : step s = .next (Faulted s f info) := by
  rw [step_of_fetches h, hx, endOutcome, endStep_of_fault hne]

/-- A state that meets the condition of a row takes the fault of that row (60_exceptions.md R220). -/
theorem step_of_faultCause {s : State} {f : FaultCode} {info : Word} (h : FaultCause s f info) :
    step s = .next (Faulted s f info) := by
  cases f with
  | none => exact h.elim
  | stackOverflow =>
    obtain ⟨nnn, hf, hsp, hinfo⟩ := h
    obtain rfl : info = zextAddr nnn := BitVec.eq_of_toNat_eq (hinfo.trans (zextAddr_toNat nnn).symm)
    exact step_of_exec_fault hf (exec_call_of_full nnn hsp) (by decide)
  | stackUnderflow =>
    obtain ⟨hf, hsp, rfl⟩ := h
    exact step_of_exec_fault hf (exec_ret_of_empty hsp) (by decide)
  | illegalOpcode =>
    obtain ⟨hs, hp, hw, rfl⟩ := h
    obtain ⟨hillegal, -⟩ := illegalOpcodeFault
    exact hillegal s hs hp hw
  | fetchBounds =>
    obtain ⟨hs, hp, rfl⟩ := h
    obtain ⟨hbounds, -⟩ := fetchBoundsFault s hs
    exact hbounds hp
  | dataBounds =>
    obtain ⟨rfl, ⟨x, y, n, hf, hrange⟩ | ⟨x, hf, hout⟩ | ⟨x, hf, hout⟩ | ⟨x, hf, hout⟩⟩ := h
    · obtain ⟨-, hdraw, -⟩ := drawSpriteResult x y n s
      exact step_of_exec_fault hf (hdraw hrange) (by decide)
    · obtain ⟨-, hdecimal, -⟩ := storeDecimalResult x s
      exact step_of_exec_fault hf (hdecimal hout) (by decide)
    · obtain ⟨-, hstore, -⟩ := storeRegistersResult x s
      exact step_of_exec_fault hf (hstore hout) (by decide)
    · obtain ⟨-, hload, -⟩ := loadRegistersResult x s
      exact step_of_exec_fault hf (hload hout) (by decide)
  | reservedWrite =>
    obtain ⟨rfl, hlow, ⟨x, hf⟩ | ⟨x, hf⟩⟩ := h
    · obtain ⟨-, -, hdecimal, -⟩ := storeDecimalResult x s
      exact step_of_exec_fault hf (hdecimal hlow) (by decide)
    · obtain ⟨-, -, hstore, -⟩ := storeRegistersResult x s
      exact step_of_exec_fault hf (hstore hlow) (by decide)
  | keyIndex =>
    obtain ⟨x, hf, hkey, hinfo⟩ := h
    obtain rfl : info = zextByte (s.reg x) := BitVec.eq_of_toNat_eq (hinfo.trans (zextByte_toNat _).symm)
    obtain hf | hf := hf
    · exact step_of_exec_fault hf (exec_skp_of_gt hkey) (by decide)
    · exact step_of_exec_fault hf (exec_sknp_of_gt hkey) (by decide)

/-! ### No row's condition holds -/

/-- An instruction fetched by a core that meets no row's condition executes and leaves FAULT_CODE (60_exceptions.md R220). -/
theorem exec_runs_of_no_faultCause {s : State} {i : Instr} (hf : Fetches s i)
    (hno : ∀ f info, ¬ FaultCause s f info) : ∃ u, exec i s = .next u ∧ u.faultCode = s.faultCode := by
  cases i with
  | ret =>
    have hsp : s.sp.val ≠ 0 := fun h => hno .stackUnderflow 0 ⟨hf, h, rfl⟩
    exact ⟨_, exec_ret_of_pos (Nat.pos_of_ne_zero hsp), rfl⟩
  | call nnn =>
    have hsp : s.sp.val ≠ 16 := fun h => hno .stackOverflow _ ⟨nnn, hf, h, zextAddr_toNat nnn⟩
    exact ⟨_, exec_call_of_room nnn (by omega), rfl⟩
  | drw x y n =>
    have hin : ¬ (n.toNat > 0 ∧ s.i.toNat + (n.toNat - 1) > 0xFFF) := fun h =>
      hno .dataBounds s.i ⟨rfl, .inl ⟨x, y, n, hf, h⟩⟩
    have hn : s.loadRangeFault n.toNat = none := by rw [State.loadRangeFault_eq, if_neg (by omega)]
    exact ⟨_, exec_drw_of_no_fault hn, by simp⟩
  | skp x =>
    cases hk : keyNumber? (s.reg x) with
    | none =>
      have hkey := (keyNumber?_eq_none _).mp hk
      exact (hno .keyIndex _ ⟨x, .inl hf, hkey, zextByte_toNat _⟩).elim
    | some k => exact ⟨_, exec_skp_of_key ((keyNumber?_eq_some _ k).mp hk).symm, rfl⟩
  | sknp x =>
    cases hk : keyNumber? (s.reg x) with
    | none =>
      have hkey := (keyNumber?_eq_none _).mp hk
      exact (hno .keyIndex _ ⟨x, .inr hf, hkey, zextByte_toNat _⟩).elim
    | some k => exact ⟨_, exec_sknp_of_key ((keyNumber?_eq_some _ k).mp hk).symm, rfl⟩
  | ldVxK x =>
    cases hsel : s.selectKey with
    | none => exact ⟨_, exec_ldVxK_of_no_key hsel, rfl⟩
    | some k => exact ⟨_, exec_ldVxK_of_selectKey hsel, rfl⟩
  | ldBVx x =>
    have hlo : ¬ s.i.toNat < 0x200 := fun h => hno .reservedWrite s.i ⟨rfl, h, .inl ⟨x, hf⟩⟩
    have hhi : ¬ s.i.toNat + 2 > 0xFFF := fun h => hno .dataBounds s.i ⟨rfl, .inr (.inl ⟨x, hf, h⟩)⟩
    exact ⟨_, exec_ldBVx_of_no_fault (State.storeRangeFault_eq_none (by omega) (by omega)), by simp⟩
  | ldMemVx x =>
    have hlo : ¬ s.i.toNat < 0x200 := fun h => hno .reservedWrite s.i ⟨rfl, h, .inr ⟨x, hf⟩⟩
    have hhi : ¬ s.i.toNat + x.toNat > 0xFFF := fun h =>
      hno .dataBounds s.i ⟨rfl, .inr (.inr (.inl ⟨x, hf, h⟩))⟩
    exact ⟨_, exec_ldMemVx_of_no_fault (State.storeRangeFault_eq_none (by omega) (by omega)), by simp⟩
  | ldVxMem x =>
    have hhi : ¬ s.i.toNat + x.toNat > 0xFFF := fun h =>
      hno .dataBounds s.i ⟨rfl, .inr (.inr (.inr ⟨x, hf, h⟩))⟩
    exact ⟨_, exec_ldVxMem_of_no_fault (State.loadRangeFault_eq_none (by omega)), by simp⟩
  | _ => exact ⟨_, rfl, rfl⟩

/-- A running core that meets no row's condition fetches an instruction: every pc and every word at which fetch and decode
fault lies in a row (30_encoding.md R82, R96). -/
theorem fetches_of_no_faultCause {s : State} (hs : s.faultCode = .none) (hno : ∀ f info, ¬ FaultCause s f info) :
    ∃ i, Fetches s i := by
  have hp : ¬ s.pc.toNat > 0xFFE := fun h => hno .fetchBounds s.pc ⟨hs, h, rfl⟩
  obtain ⟨i, hd⟩ | hd := decode_total s.fetchWord
  · exact ⟨i, hs, by omega, hd⟩
  · have hw : WellFormedWord s.fetchWord = false :=
      (wellFormedWord_eq_false _).mpr ((decode_eq_illegal_iff_no_row _).mp hd)
    exact absurd ⟨hs, by omega, hw, rfl⟩ (hno .illegalOpcode s.fetchWord)

/-- The step of a running core that meets no row's condition takes no fault (60_exceptions.md R220). -/
theorem step_runs_of_no_faultCause {s : State} (hs : s.faultCode = .none) (hno : ∀ f info, ¬ FaultCause s f info) :
    ∃ t, step s = .next t ∧ t.faultCode = .none := by
  obtain ⟨i, hf⟩ := fetches_of_no_faultCause hs hno
  obtain ⟨u, hx, hu⟩ := exec_runs_of_no_faultCause hf hno
  exact ⟨u.tick, step_of_exec_keeping_faultCode hf hx hu, hu.trans hs⟩

/-! ### The fault table -/

/-- A load, refused or not, leaves the fault status (60_exceptions.md R238). -/
theorem State.load_readFault (s : State) (bytes : List Byte) : (s.load bytes).2.readFault = s.readFault := by
  unfold State.load
  split
  · rfl
  · simp [State.readFault]

/-- Settles O13: the step of a core that meets a row's condition is that row's entry, so any two rows it meets have one
entry; with no row met the step executes an instruction and ticks. -/
theorem stepFaultsExactlyAsListed : Obligations.StepFaultsExactlyAsListed := by
  refine ⟨fun s hs => ?_, rfl, State.load_readFault⟩
  by_cases hcause : ∃ f info, FaultCause s f info
  · have ⟨f, info, h⟩ := hcause
    have hstep : step s = .next (Faulted s f info) := step_of_faultCause h
    exact ⟨_, hstep, fun _ _ h' => next_inj (hstep.symm.trans (step_of_faultCause h')), absurd hcause⟩
  · have hno : ∀ f info, ¬ FaultCause s f info := fun f info h => hcause ⟨f, info, h⟩
    obtain ⟨t, hstep, ht⟩ := step_runs_of_no_faultCause hs hno
    exact ⟨t, hstep, fun f info h => absurd h (hno f info), fun _ => ht⟩

end Sys2Proof.Machine
end

section
/-! Reset, load and a timer's write followed by its read (70_reset_and_hazards.md R250, R252, R255). -/

namespace Sys2Proof.Machine

open Sys2Proof

/-! ### Load -/

/-- The load of a program that is too long (60_exceptions.md R238). -/
theorem State.load_of_gt (s : State) {bytes : List Byte} (h : bytes.length > 3584) :
    s.load bytes = (.loadError, s) :=
  if_pos h

/-- The load of a program that fits (70_reset_and_hazards.md R252). -/
theorem State.load_of_le (s : State) {bytes : List Byte} (h : bytes.length ≤ 3584) :
    s.load bytes = (.ok, s.writeBytes 0x200 bytes) :=
  if_neg (Nat.not_lt.mpr h)

/-- Settles O55: the length decides, and a load that is taken is the store of the bytes from 0x200 on. -/
theorem loadCopiesProgram : Obligations.LoadCopiesProgram := by
  refine fun s bytes => ⟨s.load_of_gt, fun hlen =>
    ⟨_, s.load_of_le hlen, fun k hk => ?_, fun b hb => ?_, s.writeBytes_eq 0x200 bytes⟩⟩
  · rw [State.readByte_writeBytes, if_pos ⟨Nat.le_add_right .., Nat.add_lt_add_left hk _⟩, Nat.add_sub_cancel_left]
  · rw [State.readByte_writeBytes, if_neg (by omega)]

/-! ### Reset -/

section

variable (s : State)

/-- Memory after `reset()` is FONT at 0x050 to 0x09F and 0 elsewhere (10_state.md R49). -/
theorem State.readByte_hostReset (a : Nat) :
    s.hostReset.readByte a = if 0x050 ≤ a ∧ a < 0x0A0 then fontTable.getD (a - 0x050) 0 else 0 :=
  rfl

theorem State.reg_hostReset (r : Reg) : s.hostReset.reg r = 0 :=
  Vector.getElem_replicate r.isLt

theorem State.stack_hostReset (r : Reg) : s.hostReset.stack[r.toNat] = 0 :=
  Vector.getElem_replicate r.isLt

theorem State.keyDown_hostReset (k : Reg) : s.hostReset.keyDown k = false :=
  Vector.getElem_replicate k.isLt

/-- The frame buffer after `reset()` is a cleared one (70_reset_and_hazards.md R250). -/
theorem State.pixel_hostReset (x y : Nat) : s.hostReset.pixel x y = false :=
  s.pixel_clearPixels x y

end

/-- Settles O54: the state right after reset is also what `reset()` makes of itself, so `reset()` is the only case. -/
theorem resetValues : Obligations.ResetValues := by
  intro s t ht
  obtain ⟨u, rfl⟩ : ∃ u : State, t = u.hostReset := by
    obtain rfl | hmove := ht
    · exact ⟨State.reset, rfl⟩
    · exact ⟨s, (next_inj hmove).symm⟩
  exact ⟨fun a _ => u.readByte_hostReset a,
    fun r => ⟨u.reg_hostReset r, u.stack_hostReset r, u.keyDown_hostReset r⟩,
    rfl, rfl, rfl, rfl, rfl, fun x y _ _ => u.pixel_hostReset x y, rfl, rfl, rfl, rfl⟩

/-! ### A timer written and then read -/

/-- Settles O58, from the transfers one by one (O53): the step of FX15 leaves VX - 1 in DT, and FX07 reads DT before the
tick of its own step; the step of FX18 with 1 leaves sound inactive. -/
theorem timerWriteThenRead : Obligations.TimerWriteThenRead := by
  refine fun x y s => ⟨fun hf => ?_, fun hf hone => ?_⟩
  · obtain ⟨-, ⟨-, -, hwrite⟩, -⟩ := timerTransferResults x s
    obtain ⟨t, hstep, hdt⟩ := hwrite hf
    obtain ⟨⟨-, ⟨u, hexec, hreg, -⟩, hread⟩, -⟩ := timerTransferResults y t
    refine ⟨t, hstep, ⟨u, hexec, by rw [hreg, hdt]⟩, fun hft => ?_⟩
    obtain ⟨w, hstep', hreg', -⟩ := hread hft
    exact ⟨w, hstep', by rw [hreg', hdt]⟩
  · obtain ⟨-, -, -, -, hwrite⟩ := timerTransferResults x s
    obtain ⟨t, hstep, -, hsilent⟩ := hwrite hf
    exact ⟨t, hstep, hsilent (congrArg BitVec.toNat hone)⟩

end Sys2Proof.Machine
end
